-- ==== Sys2Proof/Word.lean ====
section
/-! DEFINITION. The bit widths of the spec and the four record formats CORE decodes (30_encoding.md R80, R86, R90, R93). -/

namespace Sys2Proof

/-- A byte of the wire or of a buffer (00_scope.md R11). -/
abbrev Byte := BitVec 8

/-- A 16-bit counter (00_scope.md R9, "counter width"). -/
abbrev Half := BitVec 16

/-- A 32-bit register, command word or sentinel (00_scope.md R9, "result width"). -/
abbrev Word := BitVec 32

/-- A host bus byte address (00_scope.md R9, "host address width"). -/
abbrev HostAddr := BitVec 18

/-- One input of CORE as the bits that carry it. Each format's length is fixed and known before decoding, by the port
the record arrives on (30_encoding.md R95).
DEDUCED (log 13): a WIRE8 record is a byte answered on the RX port, a CMD32 record is the host's word write of that
word to CMD. -/
inductive Record where
  /-- a wire byte, R80 -/
  | wire8 (b : Byte)
  /-- a command word written to CMD, R86 -/
  | cmd32 (w : Word)
  /-- an event record, R90 -/
  | ev36 (r : BitVec 36)
  /-- a host bus transaction, R93 -/
  | bus53 (r : BitVec 53)
  deriving DecidableEq, Repr

end Sys2Proof
end

