-- ==== Sys2Proof/Config.lean ====
section
/-! DEFINITION. The parameters (00_scope.md R9), the constants (10_state.md R49-R52), and the free values of the
unspecified buffer bytes (20_memory.md R62, 10_state.md R38). -/

namespace Sys2Proof.Config

/-- The open parameters of a CORE (00_scope.md R9, 10_state.md R53). They are arguments of the model, held in
`State.cfg`, which no step changes (70_reset_and_hazards.md R252; DESIGN CHOICE, log 4). -/
structure Params where
  /-- `RX_BUF_CAP`: the size of RXBUF in bytes, 1..65535 -/
  rxBufCap : Nat
  /-- `TX_BUF_CAP`: the size of TXBUF in bytes, 1..65535 -/
  txBufCap : Nat
  /-- `HS_BUF_SIZE`: the size the handshake reads with, 0..RX_BUF_CAP -/
  hsBufSize : Nat
  deriving DecidableEq, Repr

/-- The constraints of 00_scope.md R9: a configuration that violates one is ill-formed, and the model refuses it. -/
def wellFormed (p : Params) : Bool :=
  decide (1 ≤ p.rxBufCap) && decide (p.rxBufCap ≤ 65535) && decide (1 ≤ p.txBufCap) && decide (p.txBufCap ≤ 65535)
    && decide (p.hsBufSize ≤ p.rxBufCap)

/-- The reference configuration of 00_scope.md R10. -/
def reference : Params := { rxBufCap := 256, txBufCap := 256, hsBufSize := 64 }

/-- `RETRY_DELAY` in milliseconds: nominal, a lower bound, read by no rule (60_exceptions.md R230). -/
def retryDelayMs : Nat := 10

/-- SYNC (10_state.md R52). -/
def sync : Byte := 0xFD

/-- ESC (10_state.md R52). -/
def esc : Byte := 0xFC

/-- ESC_OR (10_state.md R52). -/
def escOr : Byte := 0x80

/-- OVERHEAD (10_state.md R52). -/
def overhead : Nat := 5

/-- ROM_CMD, the EnterBootloaderCommand (10_state.md R49). -/
def romCmd : List Byte := [0xFD, 0x00, 0x03, 0x00, 0x00, 0x03, 0x18, 0x0A]

/-- ROM_SIG1, the BootloaderReply (10_state.md R50). -/
def romSig1 : List Byte :=
  [0xFD, 0x00, 0x0C, 0x00, 0x00, 0x00, 0x43, 0x6F, 0x5F, 0x43, 0x50, 0x55, 0x5F, 0x42, 0x4C, 0x72, 0x51]

/-- ROM_SIG2, the BootloaderReply2 (10_state.md R51). -/
def romSig2 : List Byte :=
  [0xFD, 0x00, 0x0D, 0x00, 0x00, 0x00, 0x43, 0x6F, 0x5F, 0x43, 0x50, 0x55, 0x5F, 0x41, 0x70, 0x70]

/-- FREE VALUE (log 6): what RXBUF[i] holds where the spec leaves it unspecified (20_memory.md R62, 93 U1-U3). The first
argument is the draw, `State.rxDraw`, the second the index. It has no body: nothing can evaluate it. -/
opaque rxFree : Nat → Nat → Byte

/-- FREE VALUE (log 7): what TXBUF[i] holds where nothing has written it since the last reset (10_state.md R38, 93 U2).
The first argument is the draw, `State.txDraw`, the second the index. It has no body: nothing can evaluate it. -/
opaque txFree : Nat → Nat → Byte

end Sys2Proof.Config
end

