-- ==== Sys2Proof/Syntax.lean ====
section
/-! DEFINITION. The instructions: one constructor per row of opcode_table.json. An instruction of CORE is one input it
decodes (30_encoding.md R95). -/

namespace Sys2Proof

/-- One decoded input of CORE. -/
inductive Instr where
  /-- SYNC: the byte 0xFD received (42_framereader.md R155). -/
  | sync
  /-- ESC: the byte 0xFC received (42_framereader.md R158). -/
  | esc
  /-- DATA: any other byte received (42_framereader.md R159-R161). -/
  | data (b : Byte)
  /-- HS_START: start a handshake (43_handshake.md R191). -/
  | hsStart
  /-- FR_START: start a standalone FrameReader (42_framereader.md R151). -/
  | frStart (bufsize : Half)
  /-- WA_START: start a standalone WriteAll (41_writeall.md R131). -/
  | waStart (len : Half)
  /-- CANCEL (40_commands.md R113). -/
  | cancel
  /-- RX_BYTE: CHANNEL answers a read with a byte (42_framereader.md R154). -/
  | rxByte (b : Byte)
  /-- RX_FAIL: CHANNEL answers a read with a failure sentinel, `v ≤ 0` signed (42_framereader.md R162). -/
  | rxFail (v : Word)
  /-- TX_ACK: CHANNEL has accepted the first `k` offered bytes (41_writeall.md R134). -/
  | txAck (k : Word)
  /-- TX_FAIL: CHANNEL answers a write with a failure sentinel, `v < 0` signed (41_writeall.md R135). -/
  | txFail (v : Word)
  /-- DELAY_DONE: TIMER ends the retry delay (43_handshake.md R198). -/
  | delayDone
  /-- RESET (70_reset_and_hazards.md R250). -/
  | reset
  /-- BUS_RD_B: a host byte read (40_commands.md R119). -/
  | busRdB (addr : HostAddr)
  /-- BUS_WR_B: a host byte write of DATA[7:0] (40_commands.md R119). -/
  | busWrB (addr : HostAddr) (d : Byte)
  /-- BUS_RD_W: a host word read (40_commands.md R117). -/
  | busRdW (addr : HostAddr)
  /-- BUS_WR_W: a host word write (40_commands.md R117). -/
  | busWrW (addr : HostAddr) (d : Word)
  deriving DecidableEq, Repr

end Sys2Proof
end

