-- ==== Sys2Proof/WellFormed.lean ====
section
/-! DEFINITION. Which instruction terms some record spells. -/

namespace Sys2Proof

/-- The instruction is spelled by a record: DATA is neither SYNC nor ESC (30_encoding.md R80), the sentinel of RX_FAIL is
0 or negative and that of TX_FAIL negative (30_encoding.md R91, R92). Every other field may hold any value. -/
def Instr.wellFormed : Instr → Bool
  | .data b => decide (b ≠ Config.sync) && decide (b ≠ Config.esc)
  | .rxFail v => decide (v = 0#32) || v.msb
  | .txFail v => v.msb
  | .sync | .esc | .hsStart | .frStart _ | .waStart _ | .cancel | .rxByte _ | .txAck _ | .delayDone | .reset
  | .busRdB _ | .busWrB _ _ | .busRdW _ | .busWrW _ _ => true

end Sys2Proof
end

