-- ==== Sys2Proof/Decode.lean ====
section
/-! DEFINITION. The decoders of 30_encoding.md (R80, R87, R91, R94), total on every record and refusing by name, and after
them the encoder, the opcode table's match and mask of each instruction, and the reader's numbering of a row's bits. -/

namespace Sys2Proof

/-- Why an EV36 record spells no event (30_encoding.md R92). -/
inductive EventReject where
  /-- KIND is 0x0 or 0x6-0xE -/
  | reservedKind
  /-- RX_BYTE with PAYLOAD[31:8] ≠ 0 -/
  | rxBytePayload
  /-- RX_FAIL with PAYLOAD in 0x00000001-0x7FFFFFFF -/
  | rxFailPositive
  /-- TX_FAIL with PAYLOAD[31] = 0 -/
  | txFailNonnegative
  /-- DELAY_DONE with PAYLOAD ≠ 0 -/
  | delayDonePayload
  /-- RESET with PAYLOAD ≠ 0 -/
  | resetPayload
  deriving DecidableEq, Repr

/-- A record that spells no instruction, by name. -/
inductive DecodeError where
  /-- an illegal command word (30_encoding.md R89): ILLEGAL_CMD (40_commands.md R111) -/
  | illegalCommand
  /-- a host transaction of reserved width, SZ 01 or 11 (30_encoding.md R94): BUS_ERR (40_commands.md R118) -/
  | reservedWidth (write : Bool)
  /-- a reserved event record (30_encoding.md R92): the decoder refuses it by name -/
  | reservedEvent (why : EventReject)
  deriving DecidableEq, Repr

/-- The byte classes, SYNC first (30_encoding.md R80). -/
def decodeWire (b : Byte) : Instr :=
  if b = Config.sync then .sync else if b = Config.esc then .esc else .data b

/-- The command decoder: OP in bits 31:28, RSV in 27:16, ARG in 15:0 (30_encoding.md R86, R87, R89). -/
def decodeCmd (w : Word) : Except DecodeError Instr :=
  let op := w.extractLsb' 28 4
  let rsv := w.extractLsb' 16 12
  let arg := w.extractLsb' 0 16
  if rsv ≠ 0#12 then .error .illegalCommand
  else if op = 1#4 then (if arg = 0#16 then .ok .hsStart else .error .illegalCommand)
  else if op = 2#4 then .ok (.frStart arg)
  else if op = 3#4 then .ok (.waStart arg)
  else if op = 4#4 then (if arg = 0#16 then .ok .cancel else .error .illegalCommand)
  else .error .illegalCommand

/-- The event alphabet: KIND in bits 35:32, PAYLOAD in 31:0 (30_encoding.md R90-R92). -/
def decodeEvent (r : BitVec 36) : Except DecodeError Instr :=
  let kind := r.extractLsb' 32 4
  let payload := r.extractLsb' 0 32
  if kind = 0x1#4 then
    (if payload.extractLsb' 8 24 = 0#24 then .ok (.rxByte (payload.extractLsb' 0 8))
     else .error (.reservedEvent .rxBytePayload))
  else if kind = 0x2#4 then
    (if payload = 0#32 ∨ payload.msb = true then .ok (.rxFail payload) else .error (.reservedEvent .rxFailPositive))
  else if kind = 0x3#4 then .ok (.txAck payload)
  else if kind = 0x4#4 then
    (if payload.msb = true then .ok (.txFail payload) else .error (.reservedEvent .txFailNonnegative))
  else if kind = 0x5#4 then
    (if payload = 0#32 then .ok .delayDone else .error (.reservedEvent .delayDonePayload))
  else if kind = 0xF#4 then
    (if payload = 0#32 then .ok .reset else .error (.reservedEvent .resetPayload))
  else .error (.reservedEvent .reservedKind)

/-- The bus decoder: W in bit 52, SZ in 51:50, ADDR in 49:32, DATA in 31:0 (30_encoding.md R93, R94). A byte write uses
DATA[7:0]; a read's DATA is not looked at, as the table's masks have it (DEDUCED, log 14). -/
def decodeBus (r : BitVec 53) : Except DecodeError Instr :=
  let write := r.getLsbD 52
  let size := r.extractLsb' 50 2
  let addr := r.extractLsb' 32 18
  let data := r.extractLsb' 0 32
  if size = 0b00#2 then .ok (if write then .busWrB addr (data.extractLsb' 0 8) else .busRdB addr)
  else if size = 0b10#2 then .ok (if write then .busWrW addr data else .busRdW addr)
  else .error (.reservedWidth write)

/-- The instruction a record spells, or the name of what it spells instead. -/
def decode : Record → Except DecodeError Instr
  | .wire8 b => .ok (decodeWire b)
  | .cmd32 w => decodeCmd w
  | .ev36 r => decodeEvent r
  | .bus53 r => decodeBus r

/-- A CMD32 word from its fields, RSV = 0 (30_encoding.md R86). -/
def cmdWord (op : BitVec 4) (arg : Half) : Word := op ++ 0#12 ++ arg

/-- An EV36 record from its fields (30_encoding.md R90). -/
def eventRecord (kind : BitVec 4) (payload : Word) : BitVec 36 := kind ++ payload

/-- A BUS53 record from its fields (30_encoding.md R93). -/
def busRecord (write : BitVec 1) (size : BitVec 2) (addr : HostAddr) (data : Word) : BitVec 53 :=
  write ++ size ++ addr ++ data

/-- The record that spells an instruction (30_encoding.md R80, R87, R91, R94; DATA = 0 in a read, R93). -/
def encode : Instr → Record
  | .sync => .wire8 0xFD
  | .esc => .wire8 0xFC
  | .data b => .wire8 b
  | .hsStart => .cmd32 (cmdWord 1 0)
  | .frStart n => .cmd32 (cmdWord 2 n)
  | .waStart n => .cmd32 (cmdWord 3 n)
  | .cancel => .cmd32 (cmdWord 4 0)
  | .rxByte b => .ev36 (eventRecord 0x1 (0#24 ++ b))
  | .rxFail v => .ev36 (eventRecord 0x2 v)
  | .txAck k => .ev36 (eventRecord 0x3 k)
  | .txFail v => .ev36 (eventRecord 0x4 v)
  | .delayDone => .ev36 (eventRecord 0x5 0)
  | .reset => .ev36 (eventRecord 0xF 0)
  | .busRdB a => .bus53 (busRecord 0 0b00 a 0)
  | .busWrB a d => .bus53 (busRecord 1 0b00 a (0#24 ++ d))
  | .busRdW a => .bus53 (busRecord 0 0b10 a 0)
  | .busWrW a d => .bus53 (busRecord 1 0b10 a d)

/-- The bits of a record as a number. -/
def Record.toNat : Record → Nat
  | .wire8 b => b.toNat
  | .cmd32 w => w.toNat
  | .ev36 r => r.toNat
  | .bus53 r => r.toNat

/-- The width of a record's format in bits (30_encoding.md R95). -/
def Record.width : Record → Nat
  | .wire8 _ => 8
  | .cmd32 _ => 32
  | .ev36 _ => 36
  | .bus53 _ => 53

/-- The row of opcode_table.json an instruction belongs to: the width of its format, its match and its mask. -/
def Instr.tableRow : Instr → Nat × Nat × Nat
  | .sync => (8, 0xFD, 0xFF)
  | .esc => (8, 0xFC, 0xFF)
  | .data _ => (8, 0x00, 0x00)
  | .hsStart => (32, 0x10000000, 0xFFFFFFFF)
  | .frStart _ => (32, 0x20000000, 0xFFFF0000)
  | .waStart _ => (32, 0x30000000, 0xFFFF0000)
  | .cancel => (32, 0x40000000, 0xFFFFFFFF)
  | .rxByte _ => (36, 0x100000000, 0xFFFFFFF00)
  | .rxFail _ => (36, 0x200000000, 0xF00000000)
  | .txAck _ => (36, 0x300000000, 0xF00000000)
  | .txFail _ => (36, 0x480000000, 0xF80000000)
  | .delayDone => (36, 0x500000000, 0xFFFFFFFFF)
  | .reset => (36, 0xF00000000, 0xFFFFFFFFF)
  | .busRdB _ => (53, 0x00000000000000, 0x1C000000000000)
  | .busWrB _ _ => (53, 0x10000000000000, 0x1C000000000000)
  | .busRdW _ => (53, 0x08000000000000, 0x1C000000000000)
  | .busWrW _ _ => (53, 0x18000000000000, 0x1C000000000000)

/-- The record a row of the opcode table spells: `nbits` is the row's width rounded up to whole bytes, which tells the
format (8 WIRE8, 32 CMD32, 40 EV36, 56 BUS53; DESIGN CHOICE, log 17), and `w` the record's bits, bit 0 the least
significant. A number too wide for its format is no record of it. -/
def recordOfTable (nbits w : Nat) : Option Record :=
  if nbits ≤ 8 then (if w < 2 ^ 8 then some (.wire8 (BitVec.ofNat 8 w)) else none)
  else if nbits ≤ 32 then (if w < 2 ^ 32 then some (.cmd32 (BitVec.ofNat 32 w)) else none)
  else if nbits ≤ 40 then (if w < 2 ^ 36 then some (.ev36 (BitVec.ofNat 36 w)) else none)
  else if nbits ≤ 56 then (if w < 2 ^ 53 then some (.bus53 (BitVec.ofNat 53 w)) else none)
  else none

/-- The instruction the decoder reads from a row's bits. -/
def decodeTableWord (nbits w : Nat) : Option Instr :=
  match recordOfTable nbits w with
  | some r => (decode r).toOption
  | none => none

end Sys2Proof
end

