-- ==== Sys2Proof/Machine/State.lean ====
section
/-! DEFINITION. The state of CORE (10_state.md), its reset (R38), and the reasons a step can stop. -/

namespace Sys2Proof.Machine

/-- `state`, the sequencing register (10_state.md R21). The reserved codes 6-15 are never held and are left out (93 U20). -/
inductive Seq where
  | idle
  | fr
  | wa
  | hsWa
  | hsFr
  | hsDelay
  deriving DecidableEq, Repr

/-- STATUS.CAUSE: how the last operation ended (60_exceptions.md R221). -/
inductive Cause where
  | none
  | ok
  | ioRead
  | ioWrite
  | syncErr
  | capacity
  | cancelled
  | limit
  deriving DecidableEq, Repr

/-- STATUS.FAULT_CAUSE: the first fault recorded (60_exceptions.md R222). These faults never stop CORE (40_commands.md R116). -/
inductive FaultCause where
  | none
  | illegalCmd
  | cmdBusy
  | argRange
  | txOverack
  | txbufBusy
  | busErr
  deriving DecidableEq, Repr

/-- STATUS.LAST_OP: the last operation ended (10_state.md R24). -/
inductive LastOp where
  | none
  | hs
  | fr
  | wa
  deriving DecidableEq, Repr

/-- An event CORE emits on an output port, as the event history records it (00_scope.md R12, 10_state.md R41-R45). -/
inductive Event where
  /-- bytes that enter the TX stream, in order (41_writeall.md R134) -/
  | tx (bytes : List Byte)
  /-- FLUSH (10_state.md R42) -/
  | flush
  /-- DELAY_START (10_state.md R44) -/
  | delayStart
  /-- DUMP(bytes, n) (10_state.md R45) -/
  | dump (bytes : List Byte) (n : Nat)
  deriving DecidableEq, Repr

/-- A byte space as (index, byte) pairs in canonical form: indices strictly rising, only written bytes listed.
An unlisted index has no listed value; it reads as a free value (logs 6, 7, 8). -/
abbrev Memory := List Host.Cell

/-- The state of CORE. Every field up to `events` is the spec's; the last five are the model's own. -/
structure State where
  /-- `state` (10_state.md R21) -/
  seq : Seq
  /-- STATUS.DONE (10_state.md R24) -/
  done : Bool
  /-- STATUS.FAULT, sticky (10_state.md R24) -/
  fault : Bool
  /-- STATUS.CANCEL_PENDING (10_state.md R24) -/
  cancelPending : Bool
  /-- STATUS.LAST_OP (10_state.md R24) -/
  lastOp : LastOp
  /-- STATUS.CAUSE (10_state.md R24) -/
  cause : Cause
  /-- STATUS.FAULT_CAUSE (10_state.md R24) -/
  faultCause : FaultCause
  /-- RESULT, two's complement (10_state.md R25) -/
  result : Word
  /-- CTRL.DEBUG_EN (10_state.md R23) -/
  debugEn : Bool
  /-- CTRL.IRQ_EN (10_state.md R23) -/
  irqEn : Bool
  /-- HS_LIMIT.LIMIT (10_state.md R26) -/
  hsLimit : Half
  /-- HS_ATTEMPTS (10_state.md R27) -/
  hsAttempts : Word
  /-- FR_COUNT.RES, `fr.res` (10_state.md R28) -/
  frRes : Half
  /-- FR_COUNT.ESC_CNT, `fr.esc_cnt` (10_state.md R28) -/
  frEscCnt : Half
  /-- FR_LEN.LEN, `fr.len` (10_state.md R29) -/
  frLen : Half
  /-- FR_LEN.HAVE_LEN, `fr.have_len` (10_state.md R29) -/
  frHaveLen : Bool
  /-- FR_LEN.ESC_FLAG, `fr.esc_flag` (10_state.md R29) -/
  frEscFlag : Bool
  /-- FR_CAP.CNT, `fr.cnt` (10_state.md R30) -/
  frCnt : Half
  /-- FR_CAP.BUFSIZE, `fr.bufsize` (10_state.md R30) -/
  frBufsize : Half
  /-- WA_POS.OFF, `wa.off` (10_state.md R31) -/
  waOff : Half
  /-- WA_POS.LEN, `wa.len` (10_state.md R31) -/
  waLen : Half
  /-- RXBUF (20_memory.md R60, R62) -/
  rxbuf : Memory
  /-- TXBUF (20_memory.md R60, R63) -/
  txbuf : Memory
  /-- the event history, oldest first; it holds the TX stream (00_scope.md R12, 20_memory.md R60) -/
  events : List Event
  /-- the parameters (00_scope.md R9); no step changes them (log 4) -/
  cfg : Config.Params
  /-- which draw RXBUF's free bytes come from (log 6) -/
  rxDraw : Nat
  /-- which draw TXBUF's free bytes come from (log 7) -/
  txDraw : Nat
  /-- what HOSTBUS handed back in the last read, if there was one (10_state.md R48; log 15) -/
  answer : Option Word
  /-- what HOST, CHANNEL, TIMER and RESET deliver, oldest first (00_scope.md R7; logs 1, 2) -/
  pending : List Record
  deriving DecidableEq, Repr

/-- The ports whose responses CORE awaits only in some states (10_state.md R43). -/
inductive Port where
  /-- RX, awaited in FR and HS_FR (10_state.md R40) -/
  | rx
  /-- TX, awaited in WA and HS_WA (10_state.md R41) -/
  | tx
  /-- TIMER, awaited in HS_DELAY (10_state.md R44) -/
  | timer
  deriving DecidableEq, Repr

/-- The reasons for which the model stops with a fault. The spec's own faults are not among them: they are `FaultCause`s
and CORE goes on (40_commands.md R116). -/
inductive Fault where
  /-- An accepted RX byte would be stored at an index RXBUF does not have (20_memory.md R60). Raised by the RX byte
  meanings, only in states no run reaches (42_framereader.md R166). Safe (log 9). -/
  | outsideRxbuf
  /-- The bytes a TX_ACK accepts would lie outside TXBUF or ROM_CMD (20_memory.md R60). Raised by TX_ACK, only in states no
  run reaches (41_writeall.md R131, R134). Safe (log 9). -/
  | outsideTxSource
  deriving DecidableEq, Repr

/-- The reasons for which the model refuses a step. -/
inductive Refusal where
  /-- The instruction has no meaning yet. Raised by an arm of `exec`; no arm raises it now. Safe. -/
  | notModelled (mnemonic : String)
  /-- A response no outstanding request awaits: no move (10_state.md R43, 93 U22). Raised by the RX, TX and DELAY_DONE
  meanings. Unsafe where a real channel delivers one (70_reset_and_hazards.md R262; log 10). -/
  | notAwaited (port : Port)
  /-- A reserved event record: the decoder refuses it by name (30_encoding.md R92). Raised by the step. Safe (log 11). -/
  | reservedEvent (why : EventReject)
  /-- The configuration violates 00_scope.md R9: no model instance exists (60_exceptions.md R223). Raised by the step.
  Safe (log 5). -/
  | illFormedConfig
  deriving DecidableEq, Repr

/-- The state right after power-on of a CORE with the parameters `p` (10_state.md R38, 70_reset_and_hazards.md R250). -/
def State.resetWith (p : Config.Params) : State where
  seq := .idle
  done := false
  fault := false
  cancelPending := false
  lastOp := .none
  cause := .none
  faultCause := .none
  result := 0
  debugEn := false
  irqEn := false
  hsLimit := 0
  hsAttempts := 0
  frRes := 0
  frEscCnt := 0
  frLen := 0
  frHaveLen := false
  frEscFlag := false
  frCnt := 0
  frBufsize := 0
  waOff := 0
  waLen := 0
  rxbuf := []
  txbuf := []
  events := []
  cfg := p
  rxDraw := 0
  txDraw := 0
  answer := none
  pending := []

/-- The machine right after reset, in the reference configuration of 00_scope.md R10 (DESIGN CHOICE, log 4), with nothing
delivered yet (DESIGN CHOICE, log 2). -/
def State.reset : State := State.resetWith Config.reference

end Sys2Proof.Machine
end

