-- ==== Sys2Proof/Machine/Ops.lean ====
section
/-! DEFINITION. The named operations over buffers, history and status: reads and writes of RXBUF and TXBUF, `emit`,
`raise Fault` (40_commands.md R116) and `end_op`, the stand-in for taking an exception (R115, 60_exceptions.md R226).
There is no return from it (60_exceptions.md R227). -/

namespace Sys2Proof.Machine

/-- The listed byte at an index, if one is listed. -/
def memLookup : Memory → Nat → Option Byte
  | [], _ => none
  | (k, v) :: m, i => if k = i then some v else memLookup m i

/-- The memory with byte `b` at index `i`, kept sorted. -/
def memInsert : Memory → Nat → Byte → Memory
  | [], i, b => [(i, b)]
  | (k, v) :: m, i, b =>
    if i < k then (i, b) :: (k, v) :: m
    else if i = k then (i, b) :: m
    else (k, v) :: memInsert m i b

/-- Every listed index is above `lo` and they rise strictly. -/
def memRisingAbove : Nat → Memory → Bool
  | _, [] => true
  | lo, (k, _) :: m => decide (lo < k) && memRisingAbove k m

/-- The canonical form: listed indices rise strictly. -/
def Memory.wf : Memory → Bool
  | [] => true
  | (k, _) :: m => memRisingAbove k m

/-- Every listed index lies inside a space of `size` bytes. -/
def memInside (size : Nat) (m : Memory) : Bool := m.all fun c => decide (c.1 < size)

/-- RXBUF[i]: the byte stored in the current or last attempt, else a free value (20_memory.md R62). -/
def rxByteAt (s : State) (i : Nat) : Byte := (memLookup s.rxbuf i).getD (Config.rxFree s.rxDraw i)

/-- TXBUF[i]: the byte the host wrote since the last reset, else a free value (20_memory.md R63, 10_state.md R38). -/
def txByteAt (s : State) (i : Nat) : Byte := (memLookup s.txbuf i).getD (Config.txFree s.txDraw i)

/-- MemRead(RXBUF, i, n) (00_scope.md R12). -/
def rxBytes (s : State) (i n : Nat) : List Byte := (List.range' i n).map (rxByteAt s)

/-- MemRead(TXBUF, i, n) (00_scope.md R12). -/
def txBytes (s : State) (i n : Nat) : List Byte := (List.range' i n).map (txByteAt s)

/-- MemWrite(RXBUF, i, 1, b): one byte, no other changes (00_scope.md R12, 42_framereader.md R161). -/
def rxStore (i : Nat) (b : Byte) (s : State) : State := { s with rxbuf := memInsert s.rxbuf i b }

/-- Every byte of RXBUF becomes unspecified (20_memory.md R62, 93 U1, U3): nothing listed, a new draw. -/
def rxClear (s : State) : State := { s with rxbuf := [], rxDraw := s.rxDraw + 1 }

/-- MemWrite(TXBUF, i, 1, b) (40_commands.md R119). -/
def txStore (i : Nat) (b : Byte) (s : State) : State := { s with txbuf := memInsert s.txbuf i b }

/-- `emit`: the event joins the history (00_scope.md R12). -/
def emit (e : Event) (s : State) : State := { s with events := s.events ++ [e] }

/-- `emit TX(bytes)`; an empty sequence is left out of the history, as 41_writeall.md R134 allows (log 16). -/
def emitTx (bytes : List Byte) (s : State) : State := if bytes = [] then s else emit (.tx bytes) s

/-- The bytes of the TX stream a list of events holds. -/
def txBytesOf : List Event → List Byte
  | [] => []
  | .tx bs :: es => bs ++ txBytesOf es
  | .flush :: es | .delayStart :: es | .dump _ _ :: es => txBytesOf es

/-- The TX stream: every byte the channel has accepted, in transmission order (20_memory.md R60, R75). -/
def State.txStream (s : State) : List Byte := txBytesOf s.events

/-- `raise Fault(c)`: the first cause wins, FAULT is sticky, nothing else changes (40_commands.md R116). -/
def raiseFault (c : FaultCause) (s : State) : State :=
  { s with faultCause := if s.fault then s.faultCause else c, fault := true }

/-- `end_op(op, r, c)` (40_commands.md R115). -/
def endOp (op : LastOp) (r : Word) (c : Cause) (s : State) : State :=
  { s with result := r, cause := c, lastOp := op, done := true, cancelPending := false, seq := .idle }

/-- DONE goes to 0: a start command or a STATUS write clears it (40_commands.md R110, R117). -/
def clearDone (s : State) : State := { s with done := false }

/-- The answer of a host read, handed back in the same step (10_state.md R48; log 15). -/
def giveAnswer (w : Word) (s : State) : State := { s with answer := some w }

end Sys2Proof.Machine
end

