-- ==== Sys2Proof/Machine/Flags.lean ====
section
/-! DEFINITION. The flags and codes the host sees: the codes of `state`, CAUSE, FAULT_CAUSE and LAST_OP, BUSY, the IRQ level,
STATUS, and which responses the state awaits. -/

namespace Sys2Proof.Machine

/-- The code of `state` (10_state.md R21). -/
def Seq.code : Seq → BitVec 4
  | .idle => 0
  | .fr => 1
  | .wa => 2
  | .hsWa => 3
  | .hsFr => 4
  | .hsDelay => 5

/-- The CAUSE codes (60_exceptions.md R221). -/
def Cause.code : Cause → BitVec 4
  | .none => 0
  | .ok => 1
  | .ioRead => 2
  | .ioWrite => 3
  | .syncErr => 4
  | .capacity => 5
  | .cancelled => 6
  | .limit => 7

/-- The FAULT codes (60_exceptions.md R222). -/
def FaultCause.code : FaultCause → BitVec 4
  | .none => 0
  | .illegalCmd => 1
  | .cmdBusy => 2
  | .argRange => 3
  | .txOverack => 4
  | .txbufBusy => 5
  | .busErr => 6

/-- The LAST_OP codes (10_state.md R24). -/
def LastOp.code : LastOp → BitVec 2
  | .none => 0
  | .hs => 1
  | .fr => 2
  | .wa => 3

/-- STATUS.BUSY: `STATE ≠ 0` (10_state.md R24). -/
def State.busy (s : State) : Bool := decide (s.seq ≠ .idle)

/-- The IRQ output: `(done | fault) & irq_en` (40_commands.md R120). -/
def State.irq (s : State) : Bool := (s.done || s.fault) && s.irqEn

/-- STATUS, from bit 31 down: reserved, IRQ, FAULT_CAUSE, CAUSE, reserved, LAST_OP, CANCEL_PENDING, FAULT, DONE, BUSY, STATE
(10_state.md R24). -/
def State.statusWord (s : State) : Word :=
  0#11 ++ BitVec.ofBool s.irq ++ s.faultCause.code ++ s.cause.code ++ 0#2 ++ s.lastOp.code ++
    BitVec.ofBool s.cancelPending ++ BitVec.ofBool s.fault ++ BitVec.ofBool s.done ++ BitVec.ofBool s.busy ++ s.seq.code

/-- A read request is outstanding (10_state.md R40). -/
def State.awaitsRx (s : State) : Bool := decide (s.seq = .fr) || decide (s.seq = .hsFr)

/-- A write request is outstanding (10_state.md R41). -/
def State.awaitsTx (s : State) : Bool := decide (s.seq = .wa) || decide (s.seq = .hsWa)

/-- The retry timer is active (10_state.md R44). -/
def State.awaitsTimer (s : State) : Bool := decide (s.seq = .hsDelay)

/-- A handshake is running (40_commands.md R113). -/
def State.inHandshake (s : State) : Bool :=
  decide (s.seq = .hsWa) || decide (s.seq = .hsFr) || decide (s.seq = .hsDelay)

end Sys2Proof.Machine
end

