-- ==== Sys2Proof/Machine/Operands.lean ====
section
/-! DEFINITION. The operand forms: the host address map (20_memory.md R61), the registers a word access reaches (10_state.md
R34), the fields of a command word (30_encoding.md R86-R89), and the bytes a write request offers (10_state.md R41). -/

namespace Sys2Proof.Machine

/-- The registers of the map (10_state.md R34). -/
inductive Reg where
  | cmd
  | status
  | result
  | ctrl
  | hsLimit
  | hsAttempts
  | frCount
  | frLen
  | frCap
  | waPos
  deriving DecidableEq, Repr

/-- The register at an address, if the address is a mapped register offset; every such offset is a multiple of 4
(10_state.md R34, 20_memory.md R61, R66). -/
def regAt (a : HostAddr) : Option Reg :=
  match a.toNat with
  | 0x00 => some .cmd
  | 0x04 => some .status
  | 0x08 => some .result
  | 0x0C => some .ctrl
  | 0x10 => some .hsLimit
  | 0x14 => some .hsAttempts
  | 0x18 => some .frCount
  | 0x1C => some .frLen
  | 0x20 => some .frCap
  | 0x24 => some .waPos
  | _ => none

/-- The index of RXBUF an address maps to: 0x10000 + i with i < RX_BUF_CAP (20_memory.md R61). -/
def rxIndexAt (p : Config.Params) (a : HostAddr) : Option Nat :=
  if 0x10000 ≤ a.toNat ∧ a.toNat < 0x20000 ∧ a.toNat - 0x10000 < p.rxBufCap then some (a.toNat - 0x10000) else none

/-- The index of TXBUF an address maps to: 0x20000 + i with i < TX_BUF_CAP (20_memory.md R61). -/
def txIndexAt (p : Config.Params) (a : HostAddr) : Option Nat :=
  if 0x20000 ≤ a.toNat ∧ a.toNat < 0x30000 ∧ a.toNat - 0x20000 < p.txBufCap then some (a.toNat - 0x20000) else none

/-- What a word read of a register returns (40_commands.md R117). -/
def readReg (s : State) : Reg → Word
  | .cmd => 0#32
  | .status => s.statusWord
  | .result => s.result
  | .ctrl => 0#30 ++ BitVec.ofBool s.irqEn ++ BitVec.ofBool s.debugEn
  | .hsLimit => 0#16 ++ s.hsLimit
  | .hsAttempts => s.hsAttempts
  | .frCount => s.frEscCnt ++ s.frRes
  | .frLen => 0#14 ++ BitVec.ofBool s.frEscFlag ++ BitVec.ofBool s.frHaveLen ++ s.frLen
  | .frCap => s.frBufsize ++ s.frCnt
  | .waPos => s.waLen ++ s.waOff

/-- OP of a command word (30_encoding.md R86). -/
def cmdOp (w : Word) : Nat := (w.extractLsb' 28 4).toNat

/-- RSV of a command word (30_encoding.md R86). -/
def cmdRsv (w : Word) : BitVec 12 := w.extractLsb' 16 12

/-- ARG of a command word, unsigned (30_encoding.md R88). -/
def cmdArg (w : Word) : Half := w.extractLsb' 0 16

/-- `illegal(w)` (30_encoding.md R89). -/
def cmdIllegal (w : Word) : Bool :=
  decide (cmdOp w = 0 ∨ 5 ≤ cmdOp w) || decide (cmdRsv w ≠ 0#12) ||
    (decide (cmdOp w = 1 ∨ cmdOp w = 4) && decide (cmdArg w ≠ 0#16))

/-- The size of the space the outstanding write request reads from: ROM_CMD in HS_WA, else TXBUF (10_state.md R32). -/
def txSourceSize (s : State) : Nat := if s.seq = .hsWa then Config.romCmd.length else s.cfg.txBufCap

/-- MemRead(src, i, n) of that space (10_state.md R32, R41). -/
def txSource (s : State) (i n : Nat) : List Byte :=
  if s.seq = .hsWa then (Config.romCmd.drop i).take n else txBytes s i n

/-- The number of bytes the outstanding write request offers, `wa.len - wa.off` (10_state.md R41). -/
def txOffered (s : State) : Nat := s.waLen.toNat - s.waOff.toNat

end Sys2Proof.Machine
end

