-- ==== Sys2Proof/Machine/Procedures.lean ====
section
/-! DEFINITION. The procedures several instructions share: the ends and starts of a FrameReader and a WriteAll, and the
sequencing of a handshake (41_writeall.md R132, R136; 42_framereader.md R152, R163, R164; 43_handshake.md R191-R197). -/

namespace Sys2Proof.Machine

/-- Does RXBUF[0..n-1] begin with this signature? (43_handshake.md R196) -/
def matchesSignature (sig : List Byte) (s : State) (n : Nat) : Bool :=
  decide (sig.length ≤ n) && decide (rxBytes s 0 sig.length = sig)

/-- `is_bootloader_reply(RXBUF, n)` (43_handshake.md R196). -/
def isBootloaderReply (s : State) (n : Nat) : Bool :=
  matchesSignature Config.romSig1 s n || matchesSignature Config.romSig2 s n

/-- The retry limit is reached: `hs_limit ≠ 0 and hs_attempts ≥ hs_limit` (43_handshake.md R197). -/
def limitReached (s : State) : Bool := decide (s.hsLimit ≠ 0#16) && decide (s.hsLimit.toNat ≤ s.hsAttempts.toNat)

/-- The retry delay starts (43_handshake.md R195, R197). -/
def enterDelay (s : State) : State := emit .delayStart { s with seq := .hsDelay }

/-- `hs_after_read(r, c)` (43_handshake.md R195). -/
def hsAfterRead (r : Word) (c : Cause) (s : State) : State :=
  if r.toInt ≤ 0 then endOp .hs r c s
  else if isBootloaderReply s r.toNat then endOp .hs r .ok s
  else if limitReached s then endOp .hs 0 .limit s
  else enterDelay s

/-- The dump at the end of a read, if DEBUG_EN is 1 and the result is positive (42_framereader.md R164). -/
def dumpAtEnd (r : Word) (s : State) : State :=
  if s.debugEn = true ∧ 0 < r.toInt then emit (.dump (rxBytes s 0 r.toNat) r.toNat) s else s

/-- After a result that is not positive the whole of RXBUF is unspecified (20_memory.md R62). -/
def forgetAtEnd (r : Word) (s : State) : State := if r.toInt ≤ 0 then rxClear s else s

/-- Where a FrameReader's result goes: to the host in FR, to the handshake in HS_FR (42_framereader.md R163). The rule
gives no other state a branch: nothing happens there (log 20). -/
def frHandOver (r : Word) (c : Cause) (s : State) : State :=
  match s.seq with
  | .fr => endOp .fr r c s
  | .hsFr => hsAfterRead r c s
  | .idle | .wa | .hsWa | .hsDelay => s

/-- `fr_end(r, c)` (42_framereader.md R163). -/
def frEnd (r : Word) (c : Cause) (s : State) : State := frHandOver r c (forgetAtEnd r (dumpAtEnd r s))

/-- The frame registers and RXBUF as every run starts them and every sync byte restarts them, `fr.cnt` at `fr.bufsize`
(42_framereader.md R152, R155; 70_reset_and_hazards.md R251). -/
def frRestart (s : State) : State :=
  rxClear { s with frRes := 0, frEscCnt := 0, frLen := 0, frHaveLen := false, frEscFlag := false, frCnt := s.frBufsize }

/-- A read of `bufsize` bytes is opened, unsynced (42_framereader.md R152). -/
def frOpen (bufsize : Half) (mode : Seq) (s : State) : State :=
  frRestart { s with frBufsize := bufsize, seq := mode }

/-- `begin_fr(bufsize, mode)` (42_framereader.md R152). -/
def beginFr (bufsize : Half) (mode : Seq) (s : State) : State :=
  if bufsize = 0#16 then frEnd 0 .capacity (frOpen bufsize mode s) else frOpen bufsize mode s

/-- `hs_after_write(r, c)` (43_handshake.md R194). -/
def hsAfterWrite (r : Word) (c : Cause) (s : State) : State :=
  if c = .ok then beginFr (BitVec.ofNat 16 s.cfg.hsBufSize) .hsFr s else endOp .hs r .ioWrite s

/-- `wa_end(r, c)` (41_writeall.md R136). The rule gives a branch to WA and HS_WA only: nothing happens elsewhere (log 20). -/
def waEnd (r : Word) (c : Cause) (s : State) : State :=
  match s.seq with
  | .wa => endOp .wa r c s
  | .hsWa => hsAfterWrite r c s
  | .idle | .fr | .hsFr | .hsDelay => s

/-- A write of `len` bytes is opened (41_writeall.md R132). -/
def waOpen (len : Half) (mode : Seq) (s : State) : State := { s with waLen := len, waOff := 0, seq := mode }

/-- `begin_wa(len, mode)` (41_writeall.md R132). -/
def beginWa (len : Half) (mode : Seq) (s : State) : State :=
  if len = 0#16 then waEnd 0 .ok (waOpen len mode s) else waOpen len mode s

/-- One more iteration is begun, modulo 2^32 (43_handshake.md R192). -/
def countIteration (s : State) : State := { s with hsAttempts := s.hsAttempts + 1 }

/-- `begin_iteration()` (43_handshake.md R192). -/
def beginIteration (s : State) : State := beginWa 8 .hsWa (countIteration (emit .flush s))

end Sys2Proof.Machine
end

