-- ==== Sys2Proof/Machine/Commands.lean ====
section
/-! DEFINITION. The commands (40_commands.md R110-R114): the checks, the four meanings, and the write of a command word to
CMD, which runs them. -/

namespace Sys2Proof.Machine

/-- The checks a legal start command passes through, busy before range, and its start with DONE cleared
(40_commands.md R110, R112, R114). -/
def startOperation (inRange : Bool) (start : State → State) (s : State) : State :=
  if s.seq ≠ .idle then raiseFault .cmdBusy s
  else if inRange = false then raiseFault .argRange s
  else start (clearDone s)

/-- No iteration begun and no cancel pending (43_handshake.md R191). -/
def hsClear (s : State) : State := { s with hsAttempts := 0, cancelPending := false }

/-- `hs_start()` (43_handshake.md R191). -/
def hsStartRun (s : State) : State := beginIteration (hsClear s)

/-- HS_START as a command (40_commands.md R110). -/
def commandHsStart (s : State) : State := startOperation true hsStartRun s

/-- FR_START as a command: `bufsize ≤ RX_BUF_CAP`, then `fr_start` (40_commands.md R110, 42_framereader.md R151). -/
def commandFrStart (n : Half) (s : State) : State :=
  startOperation (decide (n.toNat ≤ s.cfg.rxBufCap)) (beginFr n .fr) s

/-- WA_START as a command: `len ≤ TX_BUF_CAP`, then `wa_start` (40_commands.md R110, 41_writeall.md R131). -/
def commandWaStart (n : Half) (s : State) : State :=
  startOperation (decide (n.toNat ≤ s.cfg.txBufCap)) (beginWa n .wa) s

/-- A cancel is pending (40_commands.md R113). -/
def latchCancel (s : State) : State := { s with cancelPending := true }

/-- `cancel()`: latched in a handshake, else no effect; never busy (40_commands.md R113). -/
def commandCancel (s : State) : State := if s.inHandshake then latchCancel s else s

/-- A word written to CMD: illegal words first, then CANCEL, then the start commands (40_commands.md R110, R111). -/
def writeCmd (w : Word) (s : State) : State :=
  if cmdIllegal w then raiseFault .illegalCmd s
  else if cmdOp w = 4 then commandCancel s
  else if cmdOp w = 1 then commandHsStart s
  else if cmdOp w = 2 then commandFrStart (cmdArg w) s
  else commandWaStart (cmdArg w) s

/-- HS_START (43_handshake.md R191). -/
def execHsStart (s : State) : Host.Outcome State Fault Refusal := .next (commandHsStart s)

/-- FR_START (42_framereader.md R151). -/
def execFrStart (n : Half) (s : State) : Host.Outcome State Fault Refusal := .next (commandFrStart n s)

/-- WA_START (41_writeall.md R131). -/
def execWaStart (n : Half) (s : State) : Host.Outcome State Fault Refusal := .next (commandWaStart n s)

/-- CANCEL (40_commands.md R113). -/
def execCancel (s : State) : Host.Outcome State Fault Refusal := .next (commandCancel s)

end Sys2Proof.Machine
end

