-- ==== Sys2Proof/Machine/Bus.lean ====
section
/-! DEFINITION. Host bus transactions (40_commands.md R117-R119): word accesses to registers, byte accesses to buffers, and
BUS_ERR on everything else. -/

namespace Sys2Proof.Machine

/-- A read that is a bus error: BUS_ERR, and the read returns 0 (40_commands.md R118). -/
def readError (s : State) : State := giveAnswer 0#32 (raiseFault .busErr s)

/-- A write that is a bus error: BUS_ERR, and nothing else changes (40_commands.md R118). -/
def writeError (s : State) : State := raiseFault .busErr s

/-- CTRL takes its two fields; the other bits are ignored (40_commands.md R117). -/
def writeCtrl (d : Word) (s : State) : State := { s with debugEn := d.getLsbD 0, irqEn := d.getLsbD 1 }

/-- HS_LIMIT takes bits 15:0; the other bits are ignored (40_commands.md R117). -/
def writeLimit (d : Word) (s : State) : State := { s with hsLimit := d.extractLsb' 0 16 }

/-- A word write of `d` to a register; a write to a read-only register is a bus error (40_commands.md R117). -/
def writeReg (r : Reg) (d : Word) (s : State) : State :=
  match r with
  | .cmd => writeCmd d s
  | .status => if d.getLsbD 5 then clearDone s else s
  | .ctrl => writeCtrl d s
  | .hsLimit => writeLimit d s
  | .result | .hsAttempts | .frCount | .frLen | .frCap | .waPos => writeError s

/-- A host byte write of `d` to TXBUF[i], refused while WA runs (40_commands.md R119, 20_memory.md R69). -/
def writeTxbuf (i : Nat) (d : Byte) (s : State) : State :=
  if s.seq = .wa then raiseFault .txbufBusy s else txStore i d s

/-- A transaction of reserved width (30_encoding.md R94, 40_commands.md R118). -/
def reservedWidthAccess (write : Bool) (s : State) : State := if write then writeError s else readError s

/-- BUS_RD_B (40_commands.md R119): the byte read is the answer's low byte. -/
def execBusRdB (a : HostAddr) (s : State) : Host.Outcome State Fault Refusal :=
  match rxIndexAt s.cfg a, txIndexAt s.cfg a with
  | some i, _ => .next (giveAnswer (0#24 ++ rxByteAt s i) s)
  | none, some i => .next (giveAnswer (0#24 ++ txByteAt s i) s)
  | none, none => .next (readError s)

/-- BUS_WR_B (40_commands.md R119). -/
def execBusWrB (a : HostAddr) (d : Byte) (s : State) : Host.Outcome State Fault Refusal :=
  match txIndexAt s.cfg a with
  | some i => .next (writeTxbuf i d s)
  | none => .next (writeError s)

/-- BUS_RD_W (40_commands.md R117). -/
def execBusRdW (a : HostAddr) (s : State) : Host.Outcome State Fault Refusal :=
  match regAt a with
  | some r => .next (giveAnswer (readReg s r) s)
  | none => .next (readError s)

/-- BUS_WR_W (40_commands.md R117); a write to CMD is a command (R110). -/
def execBusWrW (a : HostAddr) (d : Word) (s : State) : Host.Outcome State Fault Refusal :=
  match regAt a with
  | some r => .next (writeReg r d s)
  | none => .next (writeError s)

end Sys2Proof.Machine
end

