-- ==== Sys2Proof/Machine/Delivery.lean ====
section
/-! DEFINITION. How an input reaches CORE: the record the environment delivers next, what a record that spells no
instruction does, and the request a response answers. -/

namespace Sys2Proof.Machine

/-- The effect of a record that spells no instruction: an illegal command word raises ILLEGAL_CMD (40_commands.md R111), a
transaction of reserved width BUS_ERR (R118, log 12), and a reserved event is refused by name (30_encoding.md R92). -/
def refuseRecord (e : DecodeError) (s : State) : Host.Outcome State Fault Refusal :=
  match e with
  | .illegalCommand => .next (raiseFault .illegalCmd s)
  | .reservedWidth write => .next (reservedWidthAccess write s)
  | .reservedEvent why => .refused (.reservedEvent why)

/-- CORE as the oldest pending record finds it: that record is no longer pending. -/
def takeRecord (rest : List Record) (s : State) : State := { s with pending := rest }

/-- The port whose response an instruction is, if it is one (10_state.md R43). -/
def responsePort : Instr → Option Port
  | .sync | .esc | .data _ | .rxByte _ | .rxFail _ => some .rx
  | .txAck _ | .txFail _ => some .tx
  | .delayDone => some .timer
  | .hsStart | .frStart _ | .waStart _ | .cancel | .reset | .busRdB _ | .busWrB _ _ | .busRdW _ | .busWrW _ _ => none

/-- The state awaits a response on a port (10_state.md R43). -/
def awaitsPort (p : Port) (s : State) : Bool :=
  match p with
  | .rx => s.awaitsRx
  | .tx => s.awaitsTx
  | .timer => s.awaitsTimer

/-- A state with a request outstanding on a port: a FrameReader started at full capacity, a WriteAll of one byte, or a
retry delay. Used by `State.withFetchWord` alone, so that a response can be the next input at all (log 3). -/
def openRequest (p : Port) (s : State) : State :=
  if awaitsPort p s then s
  else
    match p with
    | .rx => beginFr (BitVec.ofNat 16 s.cfg.rxBufCap) .fr (hsClear (clearDone s))
    | .tx => beginWa 1 .wa (hsClear (clearDone s))
    | .timer => { clearDone s with seq := .hsDelay }

/-- The state in which a record can be delivered: as it is, but for a response no request awaits. -/
def openFor (r : Record) (s : State) : State :=
  match decode r with
  | .ok i =>
    match responsePort i with
    | some p => openRequest p s
    | none => s
  | .error _ => s

end Sys2Proof.Machine
end

