-- ==== Sys2Proof/Machine/FrameReader.lean ====
section
/-! DEFINITION. FrameReader (42_framereader.md): the per-byte step of R154 in its parts, and the meanings of SYNC, ESC, DATA,
RX_BYTE and RX_FAIL. -/

namespace Sys2Proof.Machine

/-- Steps (4) and (5) for an escape marker: it is counted and announces an escaped byte (42_framereader.md R158). -/
def frMarker (s : State) : State := { s with frEscCnt := s.frEscCnt + 1, frEscFlag := true }

/-- The logical value of a byte: ORed with 0x80 when a marker announced it (42_framereader.md R159, 00_scope.md R14). -/
def logicalValue (escThis : Bool) (b : Byte) : Byte := if escThis then b ||| Config.escOr else b

/-- Step (3): the byte is counted (42_framereader.md R157). -/
def frCount (s : State) : State := { s with frRes := s.frRes + 1 }

/-- Step (4) for a byte that is no marker: the escape flag is cleared (42_framereader.md R158). -/
def frClearFlag (s : State) : State := { s with frEscFlag := false }

/-- The high half of the length (42_framereader.md R159). -/
def frTakeHigh (v : Byte) (s : State) : State := { s with frLen := v ++ 0#8 }

/-- The low half of the length, which is then known (42_framereader.md R159). -/
def frTakeLow (v : Byte) (s : State) : State := { s with frLen := s.frLen ||| (0#8 ++ v), frHaveLen := true }

/-- Step (5), the length accumulator, at logical position `fr.res - fr.esc_cnt` (42_framereader.md R159). -/
def frAccumulate (v : Byte) (s : State) : State :=
  if s.frRes.toNat = s.frEscCnt.toNat + 2 then frTakeHigh v s
  else if s.frRes.toNat = s.frEscCnt.toNat + 3 then frTakeLow v s
  else s

/-- Steps (4) and (5) on a counted byte: the flag the previous byte set is sampled before it is updated
(42_framereader.md R154, R158, R159). -/
def frDecode (b : Byte) (s : State) : State :=
  if b = Config.esc ∧ 1 < s.frRes.toNat then frMarker s
  else if s.frHaveLen then frClearFlag s
  else frAccumulate (logicalValue s.frEscFlag b) (frClearFlag s)

/-- Step (6): the frame is complete, `fr.have_len == 1 and fr.res >= fr.len + fr.esc_cnt + 5` on mathematical integers
(42_framereader.md R160, 00_scope.md R13). -/
def frComplete (s : State) : Bool :=
  s.frHaveLen && decide (s.frLen.toNat + s.frEscCnt.toNat + Config.overhead ≤ s.frRes.toNat)

/-- Step (7) without its test of the index: the raw byte is stored and capacity consumed (42_framereader.md R161). -/
def frStore (i : Nat) (b : Byte) (s : State) : State := { rxStore i b s with frCnt := s.frCnt - 1 }

/-- The tests that follow the store: completion, then capacity, else the next byte is awaited (42_framereader.md R154). -/
def frContinue (s : State) : State :=
  if frComplete s then frEnd (0#16 ++ s.frRes) .ok s
  else if s.frCnt = 0#16 then frEnd (0#16 ++ s.frRes) .capacity s
  else s

/-- Steps (3), (4), (5) and (7): the byte is counted, decoded and stored, at `fr.res - 1` after the count of step (3), which
is `fr.res` before it (42_framereader.md R154). -/
def frCounted (b : Byte) (s : State) : State := frStore s.frRes.toNat b (frDecode b (frCount s))

/-- Steps (3) to (7) on a byte that passed steps (1) and (2). An index RXBUF does not have is no byte of it (log 9). -/
def frConsume (b : Byte) (s : State) : Host.Outcome State Fault Refusal :=
  if s.frRes.toNat < s.cfg.rxBufCap then .next (frContinue (frCounted b s)) else .fault .outsideRxbuf

/-- RX_BYTE(b), the whole per-byte step (42_framereader.md R154): steps (1) and (2), then the rest. Enabled only when a read
request is outstanding (10_state.md R43). -/
def rxReceive (b : Byte) (s : State) : Host.Outcome State Fault Refusal :=
  if s.awaitsRx then
    if b = Config.sync then frConsume b (frRestart s)
    else if s.frRes = 0#16 then .next (frEnd 0 .syncErr s)
    else frConsume b s
  else .refused (.notAwaited .rx)

/-- SYNC: the byte 0xFD is received (42_framereader.md R155). -/
def execSync (s : State) : Host.Outcome State Fault Refusal := rxReceive Config.sync s

/-- ESC: the byte 0xFC is received (42_framereader.md R158). -/
def execEsc (s : State) : Host.Outcome State Fault Refusal := rxReceive Config.esc s

/-- DATA: a byte that is neither SYNC nor ESC is received (42_framereader.md R159-R161). -/
def execData (b : Byte) (s : State) : Host.Outcome State Fault Refusal := rxReceive b s

/-- RX_BYTE: any byte is received, its class decided in the step (42_framereader.md R154). -/
def execRxByte (b : Byte) (s : State) : Host.Outcome State Fault Refusal := rxReceive b s

/-- RX_FAIL: the read failed with the sentinel `v` (42_framereader.md R162). -/
def execRxFail (v : Word) (s : State) : Host.Outcome State Fault Refusal :=
  if s.awaitsRx then .next (frEnd v .ioRead s) else .refused (.notAwaited .rx)

end Sys2Proof.Machine
end

