-- ==== Sys2Proof/Machine/Handshake.lean ====
section
/-! DEFINITION. The handshake's own event (43_handshake.md): the meaning of DELAY_DONE. The rest of the handshake is in
Procedures.lean, since the reads and writes it is made of end in it. -/

namespace Sys2Proof.Machine

/-- DELAY_DONE: a pending cancel outranks the next iteration (43_handshake.md R198, R199). -/
def execDelayDone (s : State) : Host.Outcome State Fault Refusal :=
  if s.awaitsTimer then
    (if s.cancelPending then .next (endOp .hs 0 .cancelled s) else .next (beginIteration s))
  else .refused (.notAwaited .timer)

end Sys2Proof.Machine
end

