-- ==== Sys2Proof/Machine/System.lean ====
section
/-! DEFINITION. RESET (70_reset_and_hazards.md R250). -/

namespace Sys2Proof.Machine

/-- The state a reset leaves: every state item at its reset value, the buffers' unspecified bytes drawn anew (10_state.md
R38). What left CORE before stays: the history with the TX stream and the dumps (log 16), and the answer to a read (log 15).
The parameters (R252) and what the environment still delivers are no state items. -/
def afterReset (s : State) : State :=
  { State.resetWith s.cfg with
    events := s.events, rxDraw := s.rxDraw + 1, txDraw := s.txDraw + 1, answer := s.answer, pending := s.pending }

/-- RESET, in any state (70_reset_and_hazards.md R250). -/
def execReset (s : State) : Host.Outcome State Fault Refusal := .next (afterReset s)

end Sys2Proof.Machine
end

