-- ==== Sys2Proof/Machine/WriteAll.lean ====
section
/-! DEFINITION. WriteAll (41_writeall.md): the meanings of TX_ACK and TX_FAIL. -/

namespace Sys2Proof.Machine

/-- `wa.off <- wa.off + k` (41_writeall.md R134). -/
def waAdvance (k : Nat) (s : State) : State := { s with waOff := s.waOff + BitVec.ofNat 16 k }

/-- The bytes of an accepted part enter the TX stream (41_writeall.md R134). -/
def waSend (k : Nat) (s : State) : State := waAdvance k (emitTx (txSource s s.waOff.toNat k) s)

/-- An accepted part is sent, and the write ends or goes on (41_writeall.md R134). -/
def waAccept (k : Nat) (s : State) : State :=
  if (waSend k s).waOff = s.waLen then waEnd (0#16 ++ s.waLen) .ok (waSend k s) else waSend k s

/-- TX_ACK(k) (41_writeall.md R134, R139, R140). Enabled only when a write request is outstanding (10_state.md R43). Bytes
that would lie outside the source are no bytes of it (log 9). -/
def execTxAck (k : Word) (s : State) : Host.Outcome State Fault Refusal :=
  if s.awaitsTx then
    if txOffered s < k.toNat then .next (raiseFault .txOverack s)
    else if s.waOff.toNat + k.toNat ≤ txSourceSize s then .next (waAccept k.toNat s)
    else .fault .outsideTxSource
  else .refused (.notAwaited .tx)

/-- TX_FAIL(v) (41_writeall.md R135). -/
def execTxFail (v : Word) (s : State) : Host.Outcome State Fault Refusal :=
  if s.awaitsTx then .next (waEnd v .ioWrite s) else .refused (.notAwaited .tx)

end Sys2Proof.Machine
end

