-- ==== Sys2Proof/Machine/Dispatch.lean ====
section
/-! DEFINITION. The meaning of each instruction, one arm per row of opcode_table.json. -/

namespace Sys2Proof.Machine

def exec (i : Instr) (s : State) : Host.Outcome State Fault Refusal :=
  match i with
  | .sync => Sys2Proof.Machine.execSync s
  | .esc => Sys2Proof.Machine.execEsc s
  | .data b => Sys2Proof.Machine.execData b s
  | .hsStart => Sys2Proof.Machine.execHsStart s
  | .frStart n => Sys2Proof.Machine.execFrStart n s
  | .waStart n => Sys2Proof.Machine.execWaStart n s
  | .cancel => Sys2Proof.Machine.execCancel s
  | .rxByte b => Sys2Proof.Machine.execRxByte b s
  | .rxFail v => Sys2Proof.Machine.execRxFail v s
  | .txAck k => Sys2Proof.Machine.execTxAck k s
  | .txFail v => Sys2Proof.Machine.execTxFail v s
  | .delayDone => Sys2Proof.Machine.execDelayDone s
  | .reset => Sys2Proof.Machine.execReset s
  | .busRdB a => Sys2Proof.Machine.execBusRdB a s
  | .busWrB a d => Sys2Proof.Machine.execBusWrB a d s
  | .busRdW a => Sys2Proof.Machine.execBusRdW a s
  | .busWrW a d => Sys2Proof.Machine.execBusWrW a d s

end Sys2Proof.Machine
end

