-- ==== Sys2Proof/Machine/Step.lean ====
section
/-! DEFINITION. One step: CORE handles exactly one input (60_exceptions.md R224). -/

namespace Sys2Proof.Machine

/-- One step. An ill-formed configuration is refused (00_scope.md R9, log 5). With nothing delivered CORE holds (00_scope.md
R12 `await`, 60_exceptions.md R235): the state is unchanged (log 2). Else the oldest pending record is decoded and run. -/
def step (s : State) : Host.Outcome State Fault Refusal :=
  if Config.wellFormed s.cfg then
    match s.pending with
    | [] => .next s
    | r :: rest =>
      match decode r with
      | .ok i => exec i (takeRecord rest s)
      | .error e => refuseRecord e (takeRecord rest s)
  else .refused .illFormedConfig

/-- `s` with an instruction of the opcode table as the very next input, in a state that can receive it (logs 2, 3, 17). -/
def State.withFetchWord (s : State) (nbits w : Nat) : State :=
  match recordOfTable nbits w with
  | some r => { openFor r s with pending := r :: s.pending }
  | none => s

end Sys2Proof.Machine
end

