-- ==== Sys2Proof/Safety.lean ====
section
/-! DEFINITION. The terms the statements use: what a step leaves unchanged, a launch and the end of a run
(70_reset_and_hazards.md R264), a frame as bytes (30_encoding.md R80-R84), and the invariants (42_framereader.md R166 and its
like for the other registers). -/

namespace Sys2Proof.Safety

open Sys2Proof.Machine

/-! ### What stays the same -/

/-- The parameters, what the environment still delivers, and the last answer of the host bus. -/
def SameEnvironment (s t : State) : Prop := t.cfg = s.cfg ∧ t.pending = s.pending ∧ t.answer = s.answer

/-- CTRL and HS_LIMIT (10_state.md R23, R26). -/
def SameControl (s t : State) : Prop := t.debugEn = s.debugEn ∧ t.irqEn = s.irqEn ∧ t.hsLimit = s.hsLimit

/-- RESULT, CAUSE and LAST_OP (40_commands.md R115). -/
def SameOutcome (s t : State) : Prop := t.result = s.result ∧ t.cause = s.cause ∧ t.lastOp = s.lastOp

/-- FAULT and FAULT_CAUSE (40_commands.md R116). -/
def SameFaults (s t : State) : Prop := t.fault = s.fault ∧ t.faultCause = s.faultCause

/-- FR_COUNT, FR_LEN and FR_CAP (10_state.md R28-R30). -/
def SameFrameRegs (s t : State) : Prop :=
  t.frRes = s.frRes ∧ t.frEscCnt = s.frEscCnt ∧ t.frLen = s.frLen ∧ t.frHaveLen = s.frHaveLen ∧
    t.frEscFlag = s.frEscFlag ∧ t.frCnt = s.frCnt ∧ t.frBufsize = s.frBufsize

/-- WA_POS (10_state.md R31). -/
def SameWriteRegs (s t : State) : Prop := t.waOff = s.waOff ∧ t.waLen = s.waLen

/-- Every byte of RXBUF, as read (20_memory.md R62). -/
def SameRxbuf (s t : State) : Prop := ∀ i, rxByteAt t i = rxByteAt s i

/-- Every byte of TXBUF, as read (20_memory.md R63). -/
def SameTxbuf (s t : State) : Prop := ∀ i, txByteAt t i = txByteAt s i

/-- `state`, DONE, CANCEL_PENDING and HS_ATTEMPTS (10_state.md R21, R24, R27). -/
def SameSequencing (s t : State) : Prop :=
  t.seq = s.seq ∧ t.done = s.done ∧ t.cancelPending = s.cancelPending ∧ t.hsAttempts = s.hsAttempts

/-- The only difference between two states is that a fault `c` was raised (40_commands.md R116), and the answer of a read. -/
def OnlyFaultRaised (c : FaultCause) (answer : Option Word) (s t : State) : Prop :=
  t = { s with fault := true, faultCause := (if s.fault then s.faultCause else c), answer := answer }

/-- The operation ended as `end_op(op, r, c)` ends it (40_commands.md R115, 60_exceptions.md R226). -/
def EndedWith (op : LastOp) (r : Word) (c : Cause) (t : State) : Prop :=
  t.seq = .idle ∧ t.done = true ∧ t.cancelPending = false ∧ t.lastOp = op ∧ t.result = r ∧ t.cause = c

/-- The command word is illegal: OP is 0x0 or 0x5-0xF, or RSV is not 0, or OP is HS_START or CANCEL and ARG is not 0
(30_encoding.md R89). -/
def IllegalWord (w : Word) : Prop :=
  w.toNat / 2 ^ 28 = 0 ∨ 5 ≤ w.toNat / 2 ^ 28 ∨ w.toNat / 2 ^ 16 % 2 ^ 12 ≠ 0 ∨
    ((w.toNat / 2 ^ 28 = 1 ∨ w.toNat / 2 ^ 28 = 4) ∧ w.toNat % 2 ^ 16 ≠ 0)

/-! ### Runs -/

/-- CORE has been powered on in a well-formed configuration and has made any number of steps since, resets among them
(70_reset_and_hazards.md R253, items 1 and 2; item 1 is outside CORE; log 22). -/
def Booted (s : State) : Prop :=
  ∃ (p : Config.Params) (inputs : List Record) (k : Nat), Config.wellFormed p = true ∧
    Host.Core.run core k { State.resetWith p with pending := inputs } = .next s

/-- The commands that start an operation (70_reset_and_hazards.md R264). -/
def IsStart (i : Instr) : Prop := i = .hsStart ∨ ∃ n, i = .frStart n ∨ i = .waStart n

/-- The instruction runs the command `j`: it is `j`, or the host's word write of `j` to CMD (40_commands.md R110). -/
def RunsCommand (i j : Instr) : Prop := i = j ∨ ∃ w, i = .busWrW 0x00000 w ∧ decodeCmd w = .ok j

/-- The instruction starts an operation of size 0, which ends in that step (42_framereader.md R152, 41_writeall.md R132). -/
def StartsEmpty (i : Instr) : Prop := RunsCommand i (.frStart 0) ∨ RunsCommand i (.waStart 0)

/-- The record writes the command `i` to CMD: as the host's word write at 0x00000 (40_commands.md R110), or as the command
word itself (log 13). -/
def WritesCommand (r : Record) (i : Instr) : Prop :=
  ∃ w, decodeCmd w = .ok i ∧ (decode r = .ok (.busWrW 0x00000 w) ∨ r = .cmd32 w)

/-- Before WA_START with `len ≥ 1` the host has written TXBUF[0..len-1] since the last reset (70_reset_and_hazards.md R253,
item 4). -/
def TxbufLoaded (s : State) (i : Instr) : Prop :=
  ∀ n, i = .waStart n → ∀ k, k < n.toNat → (memLookup s.txbuf k).isSome = true

/-- A launch: a state that meets the boot requirements, in IDLE, with a start command written to CMD as the next input
(70_reset_and_hazards.md R253, R264). -/
structure Launch (s : State) (i : Instr) : Prop where
  booted : Booted s
  idle : s.seq = .idle
  start : IsStart i
  loaded : TxbufLoaded s i
  command : ∃ r rest, s.pending = r :: rest ∧ WritesCommand r i

/-- `state` is IDLE with DONE = 1 (70_reset_and_hazards.md R264). -/
def RunEnded (s : State) : Prop := s.seq = .idle ∧ s.done = true

/-- What a safe run keeps: FAULT = 0, the premise of every claim about a run (40_commands.md R116). -/
def Safe (s : State) : Prop := s.fault = false

/-- The run launched at `s` ends at `t`, in step `k` counted from the command's own step: the first step after which `state`
is IDLE with DONE = 1, in a run without a fault and without a RESET (70_reset_and_hazards.md R264). -/
structure RunEndsAt (s : State) (k : Nat) (t : State) : Prop where
  positive : 1 ≤ k
  reached : Host.Core.run core k s = .next t
  ended : RunEnded t
  first : ∀ (j : Nat) (u : State), 1 ≤ j → j < k → Host.Core.run core j s = .next u → ¬ RunEnded u
  safe : ∀ (j : Nat) (u : State), j ≤ k → Host.Core.run core j s = .next u → Safe u
  unreset : ∀ r ∈ s.pending.take k, decode r ≠ .ok .reset

/-- What a run shows (70_reset_and_hazards.md R264). -/
structure Observation where
  /-- RESULT -/
  result : Word
  /-- STATUS -/
  status : Word
  /-- FR_COUNT, FR_LEN, FR_CAP and WA_POS -/
  registers : List Word
  /-- RXBUF[0..RESULT-1], nothing if RESULT is 0 or negative -/
  received : List Byte
  /-- the TX bytes and the FLUSH, DELAY_START and DUMP events emitted during the run, oldest first -/
  emitted : List Event
  deriving DecidableEq, Repr

/-- The observation of the run launched at `s` that ended at `t`. RXBUF has no byte at RX_BUF_CAP or above, whatever the
length a WriteAll reports (log 22). -/
def observe (s t : State) : Observation where
  result := t.result
  status := t.statusWord
  registers := [readReg t .frCount, readReg t .frLen, readReg t .frCap, readReg t .waPos]
  received := if t.result.toInt ≤ 0 then [] else rxBytes t 0 (min t.result.toNat t.cfg.rxBufCap)
  emitted := t.events.drop s.events.length

/-- The operation a start command starts, as LAST_OP names it (40_commands.md R115). -/
def startedOp : Instr → LastOp
  | .hsStart => .hs
  | .frStart _ => .fr
  | .waStart _ => .wa
  | .sync | .esc | .data _ | .cancel | .rxByte _ | .rxFail _ | .txAck _ | .txFail _ | .delayDone | .reset
  | .busRdB _ | .busWrB _ _ | .busRdW _ | .busWrW _ _ => .none

/-! ### Frames as bytes -/

/-- The instruction is the reception of the byte `b`, as an event or as a wire byte of its class (30_encoding.md R80, R91). -/
def Receives (i : Instr) (b : Byte) : Prop := i = .rxByte b ∨ i = decodeWire b

/-- The logical bytes of raw bytes: a marker is no logical byte, and the byte after a marker is ORed with 0x80
(30_encoding.md R82, R83). `escaped` says that the byte before was a marker. -/
def logicalBytes : Bool → List Byte → List Byte
  | _, [] => []
  | escaped, b :: bs =>
    if b = Config.esc then logicalBytes true bs
    else (if escaped then b ||| Config.escOr else b) :: logicalBytes false bs

/-- The declared length, big-endian in logical positions 2 and 3, once both are there (30_encoding.md R82, 20_memory.md R64). -/
def declaredLength (bs : List Byte) : Option Nat :=
  match logicalBytes false bs with
  | _ :: hi :: lo :: _ => some (hi.toNat * 256 + lo.toNat)
  | _ => none

/-- The raw bytes of a whole frame: one sync byte, at the start, and as many logical bytes as the declared length and the
overhead of 5 call for (30_encoding.md R82); it does not end on a marker (42_framereader.md R167). -/
def IsFrame (bs : List Byte) : Prop :=
  bs.head? = some Config.sync ∧ Config.sync ∉ bs.tail ∧ bs.getLast? ≠ some Config.esc ∧
    ∃ n, declaredLength bs = some n ∧ (logicalBytes false bs).length = n + Config.overhead

/-- The raw bytes of a frame without escapes around a payload, with two trailing bytes (42_framereader.md R170). -/
def plainFrame (payload : List Byte) (x y : Byte) : List Byte :=
  [Config.sync, BitVec.ofNat 8 (payload.length / 256), BitVec.ofNat 8 payload.length] ++ payload ++ [x, y]

/-- A signature is the first part of the bytes (43_handshake.md R196). -/
def IsReply (bs : List Byte) : Prop := Config.romSig1 <+: bs ∨ Config.romSig2 <+: bs

/-- The bytes of the TX stream that follow the last FLUSH, given those of an earlier part. -/
def sinceFlush : List Byte → List Event → List Byte
  | acc, [] => acc
  | _, .flush :: es => sinceFlush [] es
  | acc, .tx bs :: es => sinceFlush (acc ++ bs) es
  | acc, .delayStart :: es => sinceFlush acc es
  | acc, .dump _ _ :: es => sinceFlush acc es

/-! ### Invariants -/

/-- A read is running. -/
def Reading (s : State) : Prop := s.seq = .fr ∨ s.seq = .hsFr

/-- The parameters are well formed (00_scope.md R9). -/
def ConfigOk (s : State) : Prop := Config.wellFormed s.cfg = true

/-- Both buffers are in canonical form and inside their sizes (20_memory.md R60). -/
def MemoryOk (s : State) : Prop :=
  Memory.wf s.rxbuf = true ∧ Memory.wf s.txbuf = true ∧ memInside s.cfg.rxBufCap s.rxbuf = true ∧
    memInside s.cfg.txBufCap s.txbuf = true

/-- The capacity account, in every state (42_framereader.md R166). -/
def CapacityOk (s : State) : Prop :=
  s.frCnt.toNat + s.frRes.toNat = s.frBufsize.toNat ∧ s.frBufsize.toNat ≤ s.cfg.rxBufCap

/-- The frame registers between the steps of a read (42_framereader.md R166). -/
def ReadOk (s : State) : Prop :=
  Reading s →
    0 < s.frCnt.toNat ∧
    (1 ≤ s.frRes.toNat → s.frEscCnt.toNat + 1 ≤ s.frRes.toNat ∧ rxByteAt s 0 = Config.sync) ∧
    (s.frRes = 0 → s.frEscCnt = 0 ∧ s.frLen = 0 ∧ s.frHaveLen = false ∧ s.frEscFlag = false) ∧
    (s.frHaveLen = true ↔ s.frEscCnt.toNat + 3 ≤ s.frRes.toNat) ∧
    (s.frHaveLen = true → s.frRes.toNat < s.frLen.toNat + s.frEscCnt.toNat + Config.overhead) ∧
    s.rxbuf.map Prod.fst = List.range s.frRes.toNat

/-- The write registers: a request always offers at least one byte of its source (10_state.md R41, 41_writeall.md R132, R134). -/
def WriteOk (s : State) : Prop :=
  s.waOff.toNat ≤ s.waLen.toNat ∧
    (s.seq = .wa → s.waOff.toNat < s.waLen.toNat ∧ s.waLen.toNat ≤ s.cfg.txBufCap) ∧
    (s.seq = .hsWa → s.waOff.toNat < 8 ∧ s.waLen = 8)

/-- The flags: a cause is recorded exactly with FAULT, DONE only in IDLE, a cancel pending only in a handshake, and CAUSE,
LAST_OP and DONE agree on whether an operation has ended (10_state.md R24, R35; 40_commands.md R113, R115, R116). -/
def FlagsOk (s : State) : Prop :=
  (s.fault = true ↔ s.faultCause ≠ .none) ∧ (s.done = true → s.seq = .idle ∧ s.cause ≠ .none) ∧
    (s.cancelPending = true → s.inHandshake = true) ∧ (s.lastOp = .none ↔ s.cause = .none)

/-- The invariant of CORE between steps. -/
structure Inv (s : State) : Prop where
  config : ConfigOk s
  memory : MemoryOk s
  capacity : CapacityOk s
  read : ReadOk s
  write : WriteOk s
  flags : FlagsOk s

/-- RESULT, CAUSE and LAST_OP together agree with a row of the table of outcomes; a RESULT that is a size is a 16-bit count
(60_exceptions.md R221, 43_handshake.md R200). -/
def OutcomeOk (s : State) : Prop :=
  match s.cause with
  | .none => s.lastOp = .none ∧ s.result = 0
  | .ok =>
    ((s.lastOp = .fr ∧ 5 ≤ s.result.toInt) ∨ (s.lastOp = .wa ∧ 0 ≤ s.result.toInt) ∨
      (s.lastOp = .hs ∧ 16 ≤ s.result.toInt)) ∧ s.result.toInt ≤ 65535
  | .ioRead => (s.lastOp = .fr ∨ s.lastOp = .hs) ∧ s.result.toInt ≤ 0
  | .ioWrite => (s.lastOp = .wa ∨ s.lastOp = .hs) ∧ s.result.toInt < 0
  | .syncErr => (s.lastOp = .fr ∨ s.lastOp = .hs) ∧ s.result = 0
  | .capacity => (s.lastOp = .fr ∧ 0 ≤ s.result.toInt ∧ s.result.toInt ≤ 65535) ∨ (s.lastOp = .hs ∧ s.result = 0)
  | .cancelled => s.lastOp = .hs ∧ s.result = 0
  | .limit => s.lastOp = .hs ∧ s.result = 0

/-- While a read runs, the frame registers are what the stored bytes say: the markers counted, the escape flag the last
byte, the length assembled from the logical bytes, and no sync byte after the first (30_encoding.md R82, R83;
42_framereader.md R155, R158, R159). -/
def RegistersDescribeBytes (s : State) : Prop :=
  Reading s →
    s.frEscCnt.toNat = (rxBytes s 0 s.frRes.toNat).count Config.esc ∧
    (s.frEscFlag = true ↔ (rxBytes s 0 s.frRes.toNat).getLast? = some Config.esc) ∧
    (s.frHaveLen = true ↔ (declaredLength (rxBytes s 0 s.frRes.toNat)).isSome = true) ∧
    (∀ n, declaredLength (rxBytes s 0 s.frRes.toNat) = some n → s.frLen.toNat = n) ∧
    (∀ b c, logicalBytes false (rxBytes s 0 s.frRes.toNat) = [b, c] → s.frLen = c ++ 0#8) ∧
    ((logicalBytes false (rxBytes s 0 s.frRes.toNat)).length ≤ 1 → s.frLen = 0) ∧
    Config.sync ∉ (rxBytes s 0 s.frRes.toNat).tail

/-- What a handshake has sent since the flush that opened its iteration: the accepted part of ROM_CMD while it writes, all
of ROM_CMD after (43_handshake.md R192-R194, R204). -/
def HandshakeSendsCommand (s : State) : Prop :=
  (s.seq = .hsWa → sinceFlush [] s.events = Config.romCmd.take s.waOff.toNat) ∧
    (s.seq = .hsFr ∨ s.seq = .hsDelay → sinceFlush [] s.events = Config.romCmd)

end Sys2Proof.Safety
end

