-- ==== Sys2Proof/Certificates/Slice0/Obligations.lean ====
section
/-! DEFINITION. The statements for the provers. Each docstring names the rules of spec/ it comes from. -/

open Sys2Proof Sys2Proof.Machine Sys2Proof.Safety

/-! ### Encoding -/

/-- Records written out in 95_test_vectors.md P1-P6 and the word forms of 30_encoding.md R80, R87, R91, R94. -/
def Obligations.SpecWordsDecode : Prop :=
  decode (.wire8 0xFD) = .ok .sync ∧ decode (.wire8 0xFC) = .ok .esc ∧ decode (.wire8 0x7D) = .ok (.data 0x7D) ∧
    decode (.cmd32 0x10000000) = .ok .hsStart ∧ decode (.cmd32 0x20000020) = .ok (.frStart 32) ∧
    decode (.cmd32 0x30000008) = .ok (.waStart 8) ∧ decode (.cmd32 0x40000000) = .ok .cancel ∧
    decode (.ev36 0x1000000FD) = .ok (.rxByte 0xFD) ∧ decode (.ev36 0x2FFFFFFFF) = .ok (.rxFail 0xFFFFFFFF) ∧
    decode (.ev36 0x300000005) = .ok (.txAck 5) ∧ decode (.ev36 0x4FFFFFFFB) = .ok (.txFail 0xFFFFFFFB) ∧
    decode (.ev36 0x500000000) = .ok .delayDone ∧ decode (.ev36 0xF00000000) = .ok .reset ∧
    decode (.bus53 0x01000700000000) = .ok (.busRdB 0x10007) ∧ decode (.bus53 0x120000000000FD) = .ok (.busWrB 0x20000 0xFD) ∧
    decode (.bus53 0x08000400000000) = .ok (.busRdW 0x00004) ∧ decode (.bus53 0x18000C00000003) = .ok (.busWrW 0x0000C 3)

/-- Decoding the encoding of a well-formed instruction gives it back, for every instruction and every operand value. -/
def Obligations.EncodedInstructionDecodesBack : Prop :=
  ∀ i : Instr, i.wellFormed = true → decode (encode i) = .ok i

/-- What decodes is well formed, and for the wire, command and event formats the record is the only one that spells it. -/
def Obligations.DecodedInstructionReencodes : Prop :=
  ∀ (r : Record) (i : Instr), decode r = .ok i → i.wellFormed = true ∧ ((∀ b, r ≠ .bus53 b) → encode i = r)

/-- 30_encoding.md R89: which command words are illegal, for the decoder and for a write to CMD. -/
def Obligations.CommandWordIllegalExactly : Prop :=
  ∀ w : Word,
    (decodeCmd w = .error .illegalCommand ↔ IllegalWord w) ∧ (cmdIllegal w = true ↔ IllegalWord w)

/-- 30_encoding.md R92: which event records spell no event; the decoder refuses each by name. That the step answers a refusal
with that name is the model's choice (log 11). -/
def Obligations.EventRecordReservedExactly : Prop :=
  ∀ r : BitVec 36,
    let kind := r.toNat / 2 ^ 32
    let payload := r.toNat % 2 ^ 32
    ((∃ why, decode (.ev36 r) = .error (.reservedEvent why)) ↔
      kind = 0 ∨ (6 ≤ kind ∧ kind ≤ 14) ∨ (kind = 1 ∧ 256 ≤ payload) ∨ (kind = 2 ∧ 1 ≤ payload ∧ payload < 2 ^ 31) ∨
        (kind = 4 ∧ payload < 2 ^ 31) ∨ ((kind = 5 ∨ kind = 15) ∧ payload ≠ 0)) ∧
    (∀ e, decode (.ev36 r) = .error e → ∃ why, e = .reservedEvent why ∧
      ∀ (s : State) (rest : List Record), ConfigOk s → s.pending = .ev36 r :: rest →
        step s = .refused (.reservedEvent why))

/-! ### One step -/

/-- A step takes the oldest pending record and runs the instruction it spells (60_exceptions.md R224). -/
def Obligations.StepRunsTheDecodedInstruction : Prop :=
  ∀ (s : State) (r : Record) (rest : List Record) (i : Instr),
    ConfigOk s → s.pending = r :: rest → decode r = .ok i → step s = exec i { s with pending := rest }

/-- The model's choices (logs 2, 5, 10, 11): with nothing delivered a step changes nothing; an ill-formed configuration, a
reserved event record (30_encoding.md R92) and a response no request awaits (10_state.md R43) are refused by name. -/
def Obligations.WaitsAndRefusals : Prop :=
  (∀ s : State, ConfigOk s → s.pending = [] → step s = .next s) ∧
  (∀ s : State, ¬ ConfigOk s → step s = .refused .illFormedConfig) ∧
  (∀ (s : State) (r : Record) (rest : List Record) (why : EventReject), ConfigOk s → s.pending = r :: rest →
    decode r = .error (.reservedEvent why) → step s = .refused (.reservedEvent why)) ∧
  (∀ (s : State) (i : Instr) (b : Byte) (v : Word), s.awaitsRx = false → Receives i b ∨ i = .rxFail v →
    exec i s = .refused (.notAwaited .rx)) ∧
  (∀ (s : State) (i : Instr) (k v : Word), s.awaitsTx = false → i = .txAck k ∨ i = .txFail v →
    exec i s = .refused (.notAwaited .tx)) ∧
  (∀ s : State, s.awaitsTimer = false → exec .delayDone s = .refused (.notAwaited .timer))

/-- 30_encoding.md R94, 40_commands.md R118: SZ 01 and 11 raise BUS_ERR, and a read returns 0. -/
def Obligations.ReservedWidthRaisesBusErr : Prop :=
  ∀ (s : State) (r : BitVec 53) (rest : List Record), ConfigOk s → s.pending = .bus53 r :: rest →
    (r.toNat / 2 ^ 50 % 4 = 1 ∨ r.toNat / 2 ^ 50 % 4 = 3) →
    ∃ t, step s = .next t ∧
      OnlyFaultRaised .busErr (if r.toNat / 2 ^ 52 = 1 then s.answer else some 0#32) { s with pending := rest } t

/-! ### Commands -/

/-- 40_commands.md R111: an illegal word written to CMD, by either record that writes it, raises ILLEGAL_CMD in every state
and changes nothing else. -/
def Obligations.IllegalCommandRaisesIllegalCmd : Prop :=
  ∀ (s : State) (w : Word), IllegalWord w →
    (∃ t, exec (.busWrW 0x00000 w) s = .next t ∧ OnlyFaultRaised .illegalCmd s.answer s t) ∧
    (∀ rest, ConfigOk s → s.pending = .cmd32 w :: rest →
      ∃ t, step s = .next t ∧ OnlyFaultRaised .illegalCmd s.answer { s with pending := rest } t)

/-- 40_commands.md R110: a host word write of a command word to CMD is that command. -/
def Obligations.CommandWriteRunsTheCommand : Prop :=
  ∀ (s : State) (w : Word) (i : Instr), decodeCmd w = .ok i → exec (.busWrW 0x00000 w) s = exec i s

/-- 40_commands.md R112, R114: a start command while an operation runs raises CMD_BUSY, and in IDLE a size above the
buffer's raises ARG_RANGE; nothing else changes. A size up to the buffer's, 0 included, is in range, and CANCEL is never
refused. -/
def Obligations.StartCommandsAreRefused : Prop :=
  (∀ (s : State) (n : Half) (i : Instr), s.seq ≠ .idle → i = .hsStart ∨ i = .frStart n ∨ i = .waStart n →
    ∃ t, exec i s = .next t ∧ OnlyFaultRaised .cmdBusy s.answer s t) ∧
  (∀ (s : State) (n : Half), s.seq = .idle → s.cfg.rxBufCap < n.toNat →
    ∃ t, exec (.frStart n) s = .next t ∧ OnlyFaultRaised .argRange s.answer s t) ∧
  (∀ (s : State) (n : Half), s.seq = .idle → s.cfg.txBufCap < n.toNat →
    ∃ t, exec (.waStart n) s = .next t ∧ OnlyFaultRaised .argRange s.answer s t) ∧
  (∀ (s : State) (n : Half) (i : Instr), s.seq = .idle →
    (i = .frStart n ∧ n.toNat ≤ s.cfg.rxBufCap) ∨ (i = .waStart n ∧ n.toNat ≤ s.cfg.txBufCap) →
    ∃ t, exec i s = .next t ∧ SameFaults s t) ∧
  (∀ s : State, ∃ t, exec .cancel s = .next t ∧ SameFaults s t)

/-- 40_commands.md R113: CANCEL is latched in a handshake and has no effect in IDLE, FR and WA. -/
def Obligations.CancelIsLatchedInAHandshake : Prop :=
  ∀ s : State,
    (s.seq = .hsWa ∨ s.seq = .hsFr ∨ s.seq = .hsDelay → exec .cancel s = .next { s with cancelPending := true }) ∧
    (s.seq = .idle ∨ s.seq = .fr ∨ s.seq = .wa → exec .cancel s = .next s)

/-- 43_handshake.md R191, R192: HS_START in IDLE flushes, counts the first iteration and offers the bytes of ROM_CMD
(10_state.md R49). -/
def Obligations.HandshakeStartOpensAnIteration : Prop :=
  ∀ s : State, s.seq = .idle → ∃ t, exec .hsStart s = .next t ∧ t.seq = .hsWa ∧ t.done = false ∧ t.cancelPending = false ∧
    t.hsAttempts = 1 ∧ t.waLen = 8 ∧ t.waOff = 0 ∧ t.events = s.events ++ [.flush] ∧
    txSource t t.waOff.toNat (txOffered t) = [0xFD, 0x00, 0x03, 0x00, 0x00, 0x03, 0x18, 0x0A] ∧
    SameEnvironment s t ∧ SameControl s t ∧ SameOutcome s t ∧ SameFaults s t ∧ SameFrameRegs s t ∧ SameRxbuf s t ∧
    SameTxbuf s t

/-- 42_framereader.md R151, R152: FR_START in IDLE with a size from 1 to RX_BUF_CAP starts an unsynced read; every byte of
RXBUF is unspecified again (20_memory.md R62), in the model none is listed (log 6). -/
def Obligations.FrameReaderStartOpensARead : Prop :=
  ∀ (s : State) (n : Half), s.seq = .idle → n ≠ 0 → n.toNat ≤ s.cfg.rxBufCap →
    ∃ t, exec (.frStart n) s = .next t ∧ t.seq = .fr ∧ t.done = false ∧ t.frBufsize = n ∧ t.frCnt = n ∧ t.frRes = 0 ∧
      t.frEscCnt = 0 ∧ t.frLen = 0 ∧ t.frHaveLen = false ∧ t.frEscFlag = false ∧ t.rxbuf = [] ∧ t.events = s.events ∧
      t.cancelPending = s.cancelPending ∧ t.hsAttempts = s.hsAttempts ∧
      SameEnvironment s t ∧ SameControl s t ∧ SameOutcome s t ∧ SameFaults s t ∧ SameWriteRegs s t ∧ SameTxbuf s t

/-- 41_writeall.md R131, R132: WA_START in IDLE with a length from 1 to TX_BUF_CAP offers TXBUF[0..len-1]. -/
def Obligations.WriteStartOffersTheBuffer : Prop :=
  ∀ (s : State) (n : Half), s.seq = .idle → n ≠ 0 → n.toNat ≤ s.cfg.txBufCap →
    ∃ t, exec (.waStart n) s = .next t ∧ t.seq = .wa ∧ t.done = false ∧ t.waLen = n ∧ t.waOff = 0 ∧
      txSource t t.waOff.toNat (txOffered t) = txBytes s 0 n.toNat ∧ t.events = s.events ∧
      t.cancelPending = s.cancelPending ∧ t.hsAttempts = s.hsAttempts ∧
      SameEnvironment s t ∧ SameControl s t ∧ SameOutcome s t ∧ SameFaults s t ∧ SameFrameRegs s t ∧ SameRxbuf s t ∧
      SameTxbuf s t

/-- 42_framereader.md R151, R152 and 41_writeall.md R131, R132: a size of 0 ends the operation in the command's own step,
with CAPACITY for a read and OK for a write, and nothing is emitted. After the read every byte of RXBUF is unspecified
(20_memory.md R62), in the model none is listed (log 6). -/
def Obligations.EmptyOperationsEndAtOnce : Prop :=
  ∀ s : State, s.seq = .idle →
    (∃ t, exec (.frStart 0) s = .next t ∧ EndedWith .fr 0 .capacity t ∧ t.frBufsize = 0 ∧ t.frCnt = 0 ∧ t.frRes = 0 ∧
      t.frEscCnt = 0 ∧ t.frLen = 0 ∧ t.frHaveLen = false ∧ t.frEscFlag = false ∧ t.rxbuf = [] ∧ t.events = s.events ∧
      t.hsAttempts = s.hsAttempts ∧ SameEnvironment s t ∧ SameControl s t ∧ SameFaults s t ∧ SameWriteRegs s t ∧ SameTxbuf s t) ∧
    (∃ t, exec (.waStart 0) s = .next t ∧ EndedWith .wa 0 .ok t ∧ t.waLen = 0 ∧ t.waOff = 0 ∧ t.events = s.events ∧
      t.hsAttempts = s.hsAttempts ∧ SameEnvironment s t ∧ SameControl s t ∧ SameFaults s t ∧ SameFrameRegs s t ∧
      SameRxbuf s t ∧ SameTxbuf s t)

/-! ### FrameReader -/

/-- 42_framereader.md R155: a sync byte restarts the frame wherever it appears and is its first counted byte; unless it fills
the buffer, nothing ends. That no byte of RXBUF at index 1 and above stays listed, where the spec leaves these bytes any value
(20_memory.md R62), is the model's choice (log 6). -/
def Obligations.SyncByteRestartsTheFrame : Prop :=
  ∀ (i : Instr) (s : State), Receives i Config.sync → ConfigOk s → Reading s →
    ∃ t, exec i s = .next t ∧ t.frRes = 1 ∧ t.frEscCnt = 0 ∧ t.frLen = 0 ∧ t.frHaveLen = false ∧ t.frEscFlag = false ∧
      t.frBufsize = s.frBufsize ∧ t.frCnt = s.frBufsize - 1 ∧ t.rxbuf = [(0, Config.sync)] ∧
      (s.frBufsize ≠ 1 → SameSequencing s t ∧ SameOutcome s t ∧ t.events = s.events) ∧
      t.hsAttempts = s.hsAttempts ∧ SameEnvironment s t ∧ SameControl s t ∧ SameFaults s t ∧ SameWriteRegs s t ∧ SameTxbuf s t

/-- 42_framereader.md R156: any other byte before the first sync byte ends the read with result 0 and SYNC_ERR, uncounted
and unstored; a handshake ends with it (43_handshake.md R202). RXBUF is unspecified (20_memory.md R62), in the model no byte
of it is listed (log 6). -/
def Obligations.NonSyncFirstByteEndsTheRead : Prop :=
  ∀ (i : Instr) (b : Byte) (s : State), Receives i b → b ≠ Config.sync → Reading s → s.frRes = 0 →
    ∃ t, exec i s = .next t ∧ EndedWith (if s.seq = .fr then .fr else .hs) 0 .syncErr t ∧ t.rxbuf = [] ∧
      t.events = s.events ∧ t.hsAttempts = s.hsAttempts ∧
      SameFrameRegs s t ∧ SameEnvironment s t ∧ SameControl s t ∧ SameFaults s t ∧ SameWriteRegs s t ∧ SameTxbuf s t

/-- 42_framereader.md R157, R161: every other byte of a synced read is counted, stored raw at the next index, and takes one
byte of capacity, whatever it then ends; every other byte of both buffers is unchanged. -/
def Obligations.CountedByteIsStoredRaw : Prop :=
  ∀ (i : Instr) (b : Byte) (s : State), Receives i b → b ≠ Config.sync → ConfigOk s → Reading s → s.frRes ≠ 0 →
    s.frRes.toNat < s.cfg.rxBufCap →
    ∃ t, exec i s = .next t ∧ t.frRes.toNat = s.frRes.toNat + 1 ∧ t.frCnt = s.frCnt - 1 ∧ t.frBufsize = s.frBufsize ∧
      rxByteAt t s.frRes.toNat = b ∧ (∀ j, j ≠ s.frRes.toNat → rxByteAt t j = rxByteAt s j) ∧ t.hsAttempts = s.hsAttempts ∧
      SameEnvironment s t ∧ SameControl s t ∧ SameFaults s t ∧ SameWriteRegs s t ∧ SameTxbuf s t

/-- 42_framereader.md R158: 0xFC in a synced read is a marker: it is counted as one, announces an escaped byte, and leaves
the length as it is. A marker after a marker is a marker again. -/
def Obligations.EscapeMarkerIsCounted : Prop :=
  ∀ (i : Instr) (s : State), Receives i Config.esc → ConfigOk s → Reading s → s.frRes ≠ 0 →
    s.frRes.toNat < s.cfg.rxBufCap →
    ∃ t, exec i s = .next t ∧ t.frEscCnt = s.frEscCnt + 1 ∧ t.frEscFlag = true ∧ t.frLen = s.frLen ∧
      t.frHaveLen = s.frHaveLen

/-- 42_framereader.md R158, R159: a byte that is neither sync nor marker clears the escape flag; while the length is not
known, the byte at logical position 2 becomes its high half and the one at position 3 its low half, each ORed with 0x80 if a
marker announced it. -/
def Obligations.LengthIsFoldedFromLogicalBytes : Prop :=
  ∀ (i : Instr) (b : Byte) (s : State), Receives i b → b ≠ Config.sync → b ≠ Config.esc → ConfigOk s → Reading s →
    s.frRes ≠ 0 → s.frRes.toNat < s.cfg.rxBufCap →
    ∃ t, exec i s = .next t ∧ t.frEscCnt = s.frEscCnt ∧ t.frEscFlag = false ∧
      (let v : Byte := if s.frEscFlag then b ||| 0x80 else b
       if s.frHaveLen then t.frLen = s.frLen ∧ t.frHaveLen = true
       else if s.frRes.toNat + 1 = s.frEscCnt.toNat + 2 then t.frLen = v ++ 0#8 ∧ t.frHaveLen = false
       else if s.frRes.toNat + 1 = s.frEscCnt.toNat + 3 then t.frLen = s.frLen ||| (0#8 ++ v) ∧ t.frHaveLen = true
       else t.frLen = s.frLen ∧ t.frHaveLen = false)

/-- 42_framereader.md R154, R160, R161: in FR, after an accepted byte (a sync byte or any byte of a synced read), a complete
frame ends the read with OK and its raw size, else a full buffer ends it with CAPACITY and the count, else the read goes on. -/
def Obligations.StandaloneReadEndsInOrder : Prop :=
  ∀ (i : Instr) (b : Byte) (s : State), Receives i b → ConfigOk s → s.seq = .fr →
    b = Config.sync ∨ (s.frRes ≠ 0 ∧ s.frRes.toNat < s.cfg.rxBufCap) →
    ∃ t, exec i s = .next t ∧
      (if t.frHaveLen = true ∧ t.frLen.toNat + t.frEscCnt.toNat + 5 ≤ t.frRes.toNat then
        EndedWith .fr (0#16 ++ t.frRes) .ok t
       else if t.frCnt = 0 then EndedWith .fr (0#16 ++ t.frRes) .capacity t
       else SameSequencing s t ∧ SameOutcome s t)

/-- 43_handshake.md R195-R197: in HS_FR, when an accepted byte ends the read, a reply whose first bytes are a signature ends
the handshake with OK and its size; else a reached limit ends it with LIMIT; else the retry delay starts. -/
def Obligations.HandshakeReadIsJudged : Prop :=
  ∀ (i : Instr) (b : Byte) (s : State), Receives i b → ConfigOk s → s.seq = .hsFr →
    b = Config.sync ∨ (s.frRes ≠ 0 ∧ s.frRes.toNat < s.cfg.rxBufCap) →
    ∃ t, exec i s = .next t ∧
      (if (t.frHaveLen = true ∧ t.frLen.toNat + t.frEscCnt.toNat + 5 ≤ t.frRes.toNat) ∨ t.frCnt = 0 then
        (IsReply (rxBytes t 0 t.frRes.toNat) → EndedWith .hs (0#16 ++ t.frRes) .ok t) ∧
        (¬ IsReply (rxBytes t 0 t.frRes.toNat) →
          (s.hsLimit ≠ 0 ∧ s.hsLimit.toNat ≤ s.hsAttempts.toNat → EndedWith .hs 0 .limit t) ∧
          (¬ (s.hsLimit ≠ 0 ∧ s.hsLimit.toNat ≤ s.hsAttempts.toNat) →
            t.seq = .hsDelay ∧ t.events.getLast? = some .delayStart ∧ t.done = s.done ∧
              t.cancelPending = s.cancelPending ∧ SameOutcome s t))
       else SameSequencing s t ∧ SameOutcome s t)

/-- 42_framereader.md R164: an accepted byte emits one dump of RXBUF[0..r-1] exactly when it ends the read and DEBUG_EN is 1;
the only other event is the DELAY_START of a handshake's retry (43_handshake.md R197). -/
def Obligations.DumpExactlyWhenAReadEnds : Prop :=
  ∀ (i : Instr) (b : Byte) (s : State), Receives i b → ConfigOk s → Reading s →
    b = Config.sync ∨ (s.frRes ≠ 0 ∧ s.frRes.toNat < s.cfg.rxBufCap) →
    ∃ t, exec i s = .next t ∧
      t.events = s.events ++
        (if s.debugEn = true ∧
            ((t.frHaveLen = true ∧ t.frLen.toNat + t.frEscCnt.toNat + 5 ≤ t.frRes.toNat) ∨ t.frCnt = 0) then
          [.dump (rxBytes t 0 t.frRes.toNat) t.frRes.toNat] else []) ++
        (if t.seq = .hsDelay then [.delayStart] else [])

/-- 42_framereader.md R162, 43_handshake.md R195: a read failure ends the read, and a handshake, with the sentinel and
IO_READ; the frame registers keep their values, RXBUF is unspecified (20_memory.md R62), in the model no byte of it is listed
(log 6), and nothing is emitted. -/
def Obligations.ReadFailureEndsTheRead : Prop :=
  ∀ (v : Word) (s : State), (Instr.rxFail v).wellFormed = true → Reading s →
    ∃ t, exec (.rxFail v) s = .next t ∧ EndedWith (if s.seq = .fr then .fr else .hs) v .ioRead t ∧ t.rxbuf = [] ∧
      t.events = s.events ∧ t.hsAttempts = s.hsAttempts ∧
      SameFrameRegs s t ∧ SameEnvironment s t ∧ SameControl s t ∧ SameFaults s t ∧ SameWriteRegs s t ∧ SameTxbuf s t

/-- 42_framereader.md R169: once a byte of the running read has been counted, no byte makes the read fail with SYNC_ERR:
a byte that ends it ends it with another cause, and CAUSE is kept while it does not (10_state.md R25). -/
def Obligations.NoSyncErrorOnceSynced : Prop :=
  ∀ (i : Instr) (b : Byte) (s t : State), Inv s → Reading s → s.frRes ≠ 0 → Receives i b → exec i s = .next t →
    (t.done = true → t.cause ≠ .syncErr) ∧ (t.done = false → t.cause = s.cause)

/-- 42_framereader.md R155: a sync byte discards all progress: what the read had counted, assembled and stored before it
makes no difference to the state after it. For the bytes of RXBUF at index 1 and above, which the spec leaves any value
(20_memory.md R62), that is the model's choice (log 6). -/
def Obligations.SyncByteForgetsTheEarlierAttempt : Prop :=
  ∀ (i : Instr) (s : State) (res escCnt len cnt : Half) (haveLen escFlag : Bool) (buf : Memory),
    Receives i Config.sync → Reading s →
    exec i { s with frRes := res, frEscCnt := escCnt, frLen := len, frCnt := cnt, frHaveLen := haveLen,
                    frEscFlag := escFlag, rxbuf := buf } = exec i s

/-- 42_framereader.md R150, R165, R167: when a byte ends a standalone read with OK, RXBUF[0..RESULT-1] is one whole frame,
and RESULT is its declared length, plus its markers, plus 5. -/
def Obligations.CompletedReadIsOneWholeFrame : Prop :=
  ∀ (i : Instr) (b : Byte) (s t : State), Inv s → RegistersDescribeBytes s → s.seq = .fr → Receives i b →
    exec i s = .next t → t.done = true → t.cause = .ok →
    IsFrame (rxBytes t 0 t.result.toNat) ∧
      ∃ n, declaredLength (rxBytes t 0 t.result.toNat) = some n ∧
        t.result.toNat = n + (rxBytes t 0 t.result.toNat).count Config.esc + Config.overhead

/-- 42_framereader.md R170: a frame without escapes around any payload that fits is read back whole, byte by byte. -/
def Obligations.PlainFrameIsReadBack : Prop :=
  ∀ (s : State) (payload : List Byte) (x y : Byte) (rest : List Record),
    Inv s → s.seq = .fr → s.frRes = 0 → payload.length + 5 ≤ s.frBufsize.toNat →
    (∀ b ∈ (plainFrame payload x y).tail, b ≠ Config.sync ∧ b ≠ Config.esc) →
    s.pending = (plainFrame payload x y).map (fun b => encode (.rxByte b)) ++ rest →
    ∃ t : State, Host.Core.run core (payload.length + 5) s = .next t ∧
      EndedWith .fr (BitVec.ofNat 32 (payload.length + 5)) .ok t ∧
      rxBytes t 0 (payload.length + 5) = plainFrame payload x y ∧ t.pending = rest ∧ t.fault = s.fault

/-! ### WriteAll -/

/-- 41_writeall.md R134: a TX_ACK of no more bytes than offered sends exactly those bytes of the source, in order, and moves
`wa.off` by their number; while bytes remain nothing else changes. That a TX_ACK of no bytes leaves no event in the history,
which the rule allows, is the model's choice (log 16). -/
def Obligations.AcknowledgedBytesAreSent : Prop :=
  ∀ (k : Word) (s : State), s.seq = .wa ∨ s.seq = .hsWa → WriteOk s → k.toNat ≤ txOffered s →
    ∃ t, exec (.txAck k) s = .next t ∧ t.txStream = s.txStream ++ txSource s s.waOff.toNat k.toNat ∧
      t.events = s.events ++ (if k = 0 then [] else [.tx (txSource s s.waOff.toNat k.toNat)]) ∧
      t.waOff.toNat = s.waOff.toNat + k.toNat ∧ t.waLen = s.waLen ∧ t.hsAttempts = s.hsAttempts ∧
      (k.toNat < txOffered s → SameSequencing s t ∧ SameOutcome s t ∧ SameFrameRegs s t ∧ SameRxbuf s t) ∧
      SameEnvironment s t ∧ SameControl s t ∧ SameFaults s t ∧ SameTxbuf s t

/-- 41_writeall.md R134, R136, 43_handshake.md R194: the TX_ACK of the last bytes ends a standalone write with OK and its
length; in a handshake it starts the read of the reply, which ends at once if HS_BUF_SIZE is 0 (R195). RXBUF is unspecified
when that read starts (20_memory.md R62), in the model no byte of it is listed (log 6). -/
def Obligations.LastAcknowledgementEndsTheWrite : Prop :=
  ∀ (k : Word) (s : State), ConfigOk s → WriteOk s → k.toNat = txOffered s →
    (s.seq = .wa → ∃ t, exec (.txAck k) s = .next t ∧ EndedWith .wa (0#16 ++ s.waLen) .ok t ∧ SameFrameRegs s t ∧
      SameRxbuf s t) ∧
    (s.seq = .hsWa → s.cfg.hsBufSize ≠ 0 → ∃ t, exec (.txAck k) s = .next t ∧ t.seq = .hsFr ∧
      t.frBufsize.toNat = s.cfg.hsBufSize ∧ t.frCnt = t.frBufsize ∧ t.frRes = 0 ∧ t.frEscCnt = 0 ∧ t.frLen = 0 ∧
      t.frHaveLen = false ∧ t.frEscFlag = false ∧ t.rxbuf = [] ∧ t.done = s.done ∧ t.cancelPending = s.cancelPending ∧
      SameOutcome s t) ∧
    (s.seq = .hsWa → s.cfg.hsBufSize = 0 → ∃ t, exec (.txAck k) s = .next t ∧ EndedWith .hs 0 .capacity t)

/-- 41_writeall.md R140: a TX_ACK of more bytes than offered raises TX_OVERACK and changes nothing else. -/
def Obligations.OverAcknowledgementRaisesTxOverack : Prop :=
  ∀ (k : Word) (s : State), s.seq = .wa ∨ s.seq = .hsWa → txOffered s < k.toNat →
    ∃ t, exec (.txAck k) s = .next t ∧ OnlyFaultRaised .txOverack s.answer s t

/-- 41_writeall.md R139: a TX_ACK of no bytes changes nothing; the request stays outstanding. That the empty TX leaves no
event in the history, which R134 allows, is the model's choice (log 16). -/
def Obligations.ZeroAcknowledgementChangesNothing : Prop :=
  ∀ s : State, s.seq = .wa ∨ s.seq = .hsWa → WriteOk s → exec (.txAck 0) s = .next s

/-- 41_writeall.md R135, 43_handshake.md R194: a write failure ends the write, and a handshake, with the sentinel and
IO_WRITE; `wa.off` keeps the count of bytes sent and nothing is withdrawn. -/
def Obligations.WriteFailureEndsTheWrite : Prop :=
  ∀ (v : Word) (s : State), s.seq = .wa ∨ s.seq = .hsWa →
    ∃ t, exec (.txFail v) s = .next t ∧ EndedWith (if s.seq = .wa then .wa else .hs) v .ioWrite t ∧ t.events = s.events ∧
      t.hsAttempts = s.hsAttempts ∧ SameWriteRegs s t ∧ SameFrameRegs s t ∧ SameRxbuf s t ∧ SameTxbuf s t ∧
      SameEnvironment s t ∧ SameControl s t ∧ SameFaults s t

/-- 41_writeall.md R138: if every TX_ACK accepts the smaller of `K ≥ 1` and what remains, a standalone write of `len ≥ 1`
bytes ends after exactly `ceil(len/K)` responses with RESULT = `len`, and TXBUF[0..len-1] has been sent. -/
def Obligations.WriteAllTakesCeilingOfLengthOverK : Prop :=
  ∀ (s : State) (K : Nat) (rest : List Record), Inv s → s.seq = .wa → s.waOff = 0 → 1 ≤ K →
    s.pending = (List.range ((s.waLen.toNat + K - 1) / K)).map
      (fun j => encode (.txAck (BitVec.ofNat 32 (min K (s.waLen.toNat - j * K))))) ++ rest →
    ∃ t : State, Host.Core.run core ((s.waLen.toNat + K - 1) / K) s = .next t ∧
      EndedWith .wa (0#16 ++ s.waLen) .ok t ∧ t.txStream = s.txStream ++ txBytes s 0 s.waLen.toNat ∧ t.pending = rest ∧
      t.fault = s.fault

/-! ### Handshake -/

/-- 43_handshake.md R198, R199: at DELAY_DONE a pending cancel ends the handshake with CANCELLED; else the next iteration
flushes, is counted modulo 2^32 and offers the bytes of ROM_CMD (10_state.md R49) again. -/
def Obligations.DelayDoneCancelsOrRetries : Prop :=
  ∀ s : State, s.seq = .hsDelay →
    (s.cancelPending = true → ∃ t, exec .delayDone s = .next t ∧ EndedWith .hs 0 .cancelled t ∧ t.events = s.events ∧
      t.hsAttempts = s.hsAttempts ∧ SameWriteRegs s t ∧ SameFrameRegs s t ∧ SameRxbuf s t ∧ SameTxbuf s t ∧
      SameEnvironment s t ∧ SameControl s t ∧ SameFaults s t) ∧
    (s.cancelPending = false → ∃ t, exec .delayDone s = .next t ∧ t.seq = .hsWa ∧ t.hsAttempts = s.hsAttempts + 1 ∧
      t.waLen = 8 ∧ t.waOff = 0 ∧ txSource t t.waOff.toNat (txOffered t) = [0xFD, 0x00, 0x03, 0x00, 0x00, 0x03, 0x18, 0x0A] ∧
      t.events = s.events ++ [.flush] ∧ t.done = s.done ∧ t.cancelPending = false ∧ SameOutcome s t ∧ SameFrameRegs s t ∧
      SameRxbuf s t ∧ SameTxbuf s t ∧ SameEnvironment s t ∧ SameControl s t ∧ SameFaults s t)

/-- 43_handshake.md R196: the signature check is a test of the first bytes of RXBUF[0..n-1] against the two signatures,
whose bytes are those of 10_state.md R50 and R51. -/
def Obligations.SignatureCheckComparesFirstBytes : Prop :=
  Config.romSig1 = [0xFD, 0x00, 0x0C, 0x00, 0x00, 0x00, 0x43, 0x6F, 0x5F, 0x43, 0x50, 0x55, 0x5F, 0x42, 0x4C, 0x72, 0x51] ∧
  Config.romSig2 = [0xFD, 0x00, 0x0D, 0x00, 0x00, 0x00, 0x43, 0x6F, 0x5F, 0x43, 0x50, 0x55, 0x5F, 0x41, 0x70, 0x70] ∧
  ∀ (s : State) (n : Nat), isBootloaderReply s n = true ↔ IsReply (rxBytes s 0 n)

/-- 43_handshake.md R205: with a read size below 16 no reply is recognised, and with 16 only the second signature. -/
def Obligations.ShortReplyBufferNeverMatches : Prop :=
  ∀ (i : Instr) (b : Byte) (s t : State), Inv s → s.seq = .hsFr → s.frBufsize.toNat ≤ 16 → Receives i b →
    exec i s = .next t → t.done = true → t.cause = .ok →
    s.frBufsize.toNat = 16 ∧
      [0xFD, 0x00, 0x0D, 0x00, 0x00, 0x00, 0x43, 0x6F, 0x5F, 0x43, 0x50, 0x55, 0x5F, 0x41, 0x70, 0x70] <+:
        rxBytes t 0 t.result.toNat

/-! ### Host bus -/

/-- 40_commands.md R117: a word read of each register returns its fields and changes nothing else (20_memory.md R68). -/
def Obligations.RegisterReadsReturnTheRegisters : Prop :=
  ∀ s : State,
    exec (.busRdW 0x00) s = .next { s with answer := some 0 } ∧
    exec (.busRdW 0x04) s = .next { s with answer := some s.statusWord } ∧
    exec (.busRdW 0x08) s = .next { s with answer := some s.result } ∧
    exec (.busRdW 0x0C) s =
      .next { s with answer := some (BitVec.ofNat 32 (2 * s.irqEn.toNat + s.debugEn.toNat)) } ∧
    exec (.busRdW 0x10) s = .next { s with answer := some (BitVec.ofNat 32 s.hsLimit.toNat) } ∧
    exec (.busRdW 0x14) s = .next { s with answer := some s.hsAttempts } ∧
    exec (.busRdW 0x18) s = .next { s with answer := some (BitVec.ofNat 32 (s.frEscCnt.toNat * 2 ^ 16 + s.frRes.toNat)) } ∧
    exec (.busRdW 0x1C) s =
      .next { s with answer := some (BitVec.ofNat 32
        (s.frEscFlag.toNat * 2 ^ 17 + s.frHaveLen.toNat * 2 ^ 16 + s.frLen.toNat)) } ∧
    exec (.busRdW 0x20) s = .next { s with answer := some (BitVec.ofNat 32 (s.frBufsize.toNat * 2 ^ 16 + s.frCnt.toNat)) } ∧
    exec (.busRdW 0x24) s = .next { s with answer := some (BitVec.ofNat 32 (s.waLen.toNat * 2 ^ 16 + s.waOff.toNat)) }

/-- 10_state.md R24, 40_commands.md R120: STATUS as a number, every field at its bit, the reserved bits 0, and its IRQ bit
the level `(done | fault) & irq_en`; and the codes of STATE (R21), LAST_OP (R24), CAUSE (60_exceptions.md R221) and
FAULT_CAUSE (R222). -/
def Obligations.StatusFieldsStandAtTheirBits : Prop :=
  (Seq.idle.code = 0 ∧ Seq.fr.code = 1 ∧ Seq.wa.code = 2 ∧ Seq.hsWa.code = 3 ∧ Seq.hsFr.code = 4 ∧ Seq.hsDelay.code = 5) ∧
  (LastOp.none.code = 0 ∧ LastOp.hs.code = 1 ∧ LastOp.fr.code = 2 ∧ LastOp.wa.code = 3) ∧
  (Cause.none.code = 0 ∧ Cause.ok.code = 1 ∧ Cause.ioRead.code = 2 ∧ Cause.ioWrite.code = 3 ∧ Cause.syncErr.code = 4 ∧
    Cause.capacity.code = 5 ∧ Cause.cancelled.code = 6 ∧ Cause.limit.code = 7) ∧
  (FaultCause.none.code = 0 ∧ FaultCause.illegalCmd.code = 1 ∧ FaultCause.cmdBusy.code = 2 ∧
    FaultCause.argRange.code = 3 ∧ FaultCause.txOverack.code = 4 ∧ FaultCause.txbufBusy.code = 5 ∧
    FaultCause.busErr.code = 6) ∧
  ∀ s : State, s.statusWord.toNat =
    s.seq.code.toNat + (if s.seq = .idle then 0 else 1) * 2 ^ 4 + s.done.toNat * 2 ^ 5 + s.fault.toNat * 2 ^ 6 +
      s.cancelPending.toNat * 2 ^ 7 + s.lastOp.code.toNat * 2 ^ 8 + s.cause.code.toNat * 2 ^ 12 +
      s.faultCause.code.toNat * 2 ^ 16 + ((s.done || s.fault) && s.irqEn).toNat * 2 ^ 20

/-- 40_commands.md R117: a word write to STATUS clears DONE if bit 5 is 1, to CTRL and HS_LIMIT stores their fields, and to
each read-only register raises BUS_ERR; nothing else changes. -/
def Obligations.RegisterWritesStoreOrRaiseBusErr : Prop :=
  ∀ (s : State) (d : Word),
    exec (.busWrW 0x04 d) s = .next { s with done := s.done && !d.getLsbD 5 } ∧
    exec (.busWrW 0x0C d) s = .next { s with debugEn := d.getLsbD 0, irqEn := d.getLsbD 1 } ∧
    exec (.busWrW 0x10 d) s = .next { s with hsLimit := BitVec.ofNat 16 (d.toNat % 2 ^ 16) } ∧
    (∀ a : HostAddr, a ∈ [0x08, 0x14, 0x18, 0x1C, 0x20, 0x24] →
      ∃ t, exec (.busWrW a d) s = .next t ∧ OnlyFaultRaised .busErr s.answer s t)

/-- 40_commands.md R118: a word access to any address that is no register offset (unmapped, misaligned, a buffer) raises
BUS_ERR; a read returns 0 and nothing else changes. -/
def Obligations.UnmappedWordAccessRaisesBusErr : Prop :=
  ∀ (s : State) (a : HostAddr) (d : Word), ¬ (a.toNat % 4 = 0 ∧ a.toNat ≤ 0x24) →
    (∃ t, exec (.busRdW a) s = .next t ∧ OnlyFaultRaised .busErr (some 0#32) s t) ∧
    (∃ t, exec (.busWrW a d) s = .next t ∧ OnlyFaultRaised .busErr s.answer s t)

/-- 40_commands.md R119: a byte read of RXBUF[i] or TXBUF[i] returns the byte in every state and changes nothing else; a byte
read anywhere else raises BUS_ERR and returns 0 (R118). -/
def Obligations.ByteReadsReturnTheBuffers : Prop :=
  ∀ (s : State) (a : HostAddr), ConfigOk s →
    (∀ i, a.toNat = 0x10000 + i → i < s.cfg.rxBufCap →
      exec (.busRdB a) s = .next { s with answer := some ((rxByteAt s i).setWidth 32) }) ∧
    (∀ i, a.toNat = 0x20000 + i → i < s.cfg.txBufCap →
      exec (.busRdB a) s = .next { s with answer := some ((txByteAt s i).setWidth 32) }) ∧
    ((∀ i, a.toNat = 0x10000 + i → s.cfg.rxBufCap ≤ i) → (∀ i, a.toNat = 0x20000 + i → s.cfg.txBufCap ≤ i) →
      ∃ t, exec (.busRdB a) s = .next t ∧ OnlyFaultRaised .busErr (some 0#32) s t)

/-- 40_commands.md R119, 20_memory.md R69: a byte write to TXBUF[i] is stored, HS_WA included, but in WA it raises TXBUF_BUSY;
a byte write anywhere else, RXBUF included, raises BUS_ERR (R118); nothing else changes. -/
def Obligations.ByteWritesReachTxbufOnly : Prop :=
  ∀ (s : State) (a : HostAddr) (d : Byte), ConfigOk s →
    (∀ i, a.toNat = 0x20000 + i → i < s.cfg.txBufCap → s.seq ≠ .wa →
      ∃ t, exec (.busWrB a d) s = .next t ∧ txByteAt t i = d ∧ (∀ j, j ≠ i → txByteAt t j = txByteAt s j) ∧
        SameRxbuf s t ∧ t = { s with txbuf := t.txbuf }) ∧
    (∀ i, a.toNat = 0x20000 + i → i < s.cfg.txBufCap → s.seq = .wa →
      ∃ t, exec (.busWrB a d) s = .next t ∧ OnlyFaultRaised .txbufBusy s.answer s t) ∧
    ((∀ i, a.toNat = 0x20000 + i → s.cfg.txBufCap ≤ i) →
      ∃ t, exec (.busWrB a d) s = .next t ∧ OnlyFaultRaised .busErr s.answer s t)

/-! ### Reset -/

/-- 10_state.md R38: the spec's reset values. -/
def Obligations.ResetStateHoldsTheResetValues : Prop :=
  ∀ p : Config.Params, let s := State.resetWith p
    s.seq = .idle ∧ s.done = false ∧ s.fault = false ∧ s.cancelPending = false ∧ s.lastOp = .none ∧ s.cause = .none ∧
      s.faultCause = .none ∧ s.result = 0 ∧ s.debugEn = false ∧ s.irqEn = false ∧ s.hsLimit = 0 ∧ s.hsAttempts = 0 ∧
      s.frRes = 0 ∧ s.frEscCnt = 0 ∧ s.frLen = 0 ∧ s.frHaveLen = false ∧ s.frEscFlag = false ∧ s.frCnt = 0 ∧
      s.frBufsize = 0 ∧ s.waOff = 0 ∧ s.waLen = 0 ∧ s.statusWord = 0 ∧ s.irq = false ∧
      s.awaitsRx = false ∧ s.awaitsTx = false ∧ s.awaitsTimer = false ∧ s.rxbuf = [] ∧ s.txbuf = [] ∧ s.cfg = p

/-- 10_state.md R38, 70_reset_and_hazards.md R250: a RESET in any state puts every state item at its reset value: no byte of
a buffer is listed, so each reads as a free value, and no request is outstanding. Nothing is emitted or withdrawn, and the
parameters stay (R252). The free values (logs 6, 7), the answer kept (log 15) and the history as the place of what was
emitted (log 16) are the model's choices. -/
def Obligations.ResetEventRestoresTheResetState : Prop :=
  ∀ s : State, ∃ t, exec .reset s = .next t ∧
    t.seq = .idle ∧ t.done = false ∧ t.fault = false ∧ t.cancelPending = false ∧ t.lastOp = .none ∧ t.cause = .none ∧
    t.faultCause = .none ∧ t.result = 0 ∧ t.debugEn = false ∧ t.irqEn = false ∧ t.hsLimit = 0 ∧ t.hsAttempts = 0 ∧
    t.frRes = 0 ∧ t.frEscCnt = 0 ∧ t.frLen = 0 ∧ t.frHaveLen = false ∧ t.frEscFlag = false ∧ t.frCnt = 0 ∧
    t.frBufsize = 0 ∧ t.waOff = 0 ∧ t.waLen = 0 ∧ t.rxbuf = [] ∧ t.txbuf = [] ∧
    (∀ i, rxByteAt t i = Config.rxFree t.rxDraw i) ∧ (∀ i, txByteAt t i = Config.txFree t.txDraw i) ∧
    t.awaitsRx = false ∧ t.awaitsTx = false ∧ t.awaitsTimer = false ∧ t.irq = false ∧ t.statusWord = 0 ∧
    t.events = s.events ∧ SameEnvironment s t

/-! ### Rules of the whole machine -/

/-- 40_commands.md R116: FAULT is sticky and the first cause wins; only RESET clears them. -/
def Obligations.OnlyResetClearsFault : Prop :=
  ∀ (i : Instr) (s t : State), exec i s = .next t → i ≠ .reset → s.fault = true →
    t.fault = true ∧ t.faultCause = s.faultCause

/-- 40_commands.md R116, 60_exceptions.md R224: a step that raises a fault changes nothing but the fault fields and the
answer of a read; in particular it ends no operation. -/
def Obligations.FaultingStepChangesNothingElse : Prop :=
  ∀ (i : Instr) (s t : State), exec i s = .next t → s.fault = false → t.fault = true →
    t = { s with fault := true, faultCause := t.faultCause, answer := t.answer } ∧ t.faultCause ≠ .none

/-- 41_writeall.md R137, 70_reset_and_hazards.md R250: no byte sent and no event emitted is withdrawn, by a reset neither.
That the history holds the FLUSH, DELAY_START and DUMP events beside the TX stream, over a reset too, is the model's choice
(log 16). -/
def Obligations.HistoryOnlyGrows : Prop :=
  (∀ (i : Instr) (s t : State), exec i s = .next t → s.events <+: t.events ∧ s.txStream <+: t.txStream) ∧
  (∀ s t : State, step s = .next t → s.events <+: t.events ∧ s.txStream <+: t.txStream)

/-- 10_state.md R23, R26, 70_reset_and_hazards.md R252: CORE never writes CTRL or HS_LIMIT, only the host and RESET do, and
nothing changes the parameters. -/
def Obligations.ControlChangesOnlyByTheHost : Prop :=
  ∀ (i : Instr) (s t : State), exec i s = .next t →
    t.cfg = s.cfg ∧ (SameControl s t ∨ i = .reset ∨ ∃ d, i = .busWrW 0x0C d ∨ i = .busWrW 0x10 d)

/-- 20_memory.md R63, R69: CORE never writes TXBUF: a byte of it changes only by a host byte write outside WA, or at RESET. -/
def Obligations.TxbufChangesOnlyByTheHost : Prop :=
  ∀ (i : Instr) (s t : State), exec i s = .next t →
    SameTxbuf s t ∨ i = .reset ∨ ∃ a d, i = .busWrB a d ∧ s.seq ≠ .wa ∧ 0x20000 ≤ a.toNat ∧ a.toNat < 0x30000

/-- 10_state.md R25, 40_commands.md R115: RESULT, CAUSE and LAST_OP are written only where an operation ends, and at RESET:
in the step that takes a running operation back to IDLE with DONE = 1, or in the step that starts one of size 0
(42_framereader.md R152, 41_writeall.md R132). -/
def Obligations.OutcomeChangesOnlyAtAnEnd : Prop :=
  ∀ (i : Instr) (s t : State), exec i s = .next t → i ≠ .reset →
    SameOutcome s t ∨
      ((s.seq ≠ .idle ∨ StartsEmpty i) ∧ t.seq = .idle ∧ t.done = true ∧ t.cancelPending = false)

/-- 10_state.md R22, 60_exceptions.md R227: an operation ends only by `end_op` or RESET: no other step leaves a state that is
not IDLE for IDLE. And 70_reset_and_hazards.md R263, R264: a run that was launched and has ended describes its own operation,
CORE awaits nothing then, and the observation holds every event of the run; the run of a size 0 ends in the command's own
step. How R253's boot requirements are read is the model's choice (log 22). -/
def Obligations.ReturnToIdleIsAnEnd : Prop :=
  (∀ (i : Instr) (s t : State), exec i s = .next t → s.seq ≠ .idle → t.seq = .idle → i = .reset ∨ RunEnded t) ∧
  (∀ (s t : State) (i : Instr) (k : Nat), Launch s i → RunEndsAt s k t →
    t.lastOp = startedOp i ∧ OutcomeOk t ∧ t.awaitsRx = false ∧ t.awaitsTx = false ∧ t.awaitsTimer = false ∧
      t.events = s.events ++ (observe s t).emitted) ∧
  (∀ (s : State) (i : Instr), Launch s i → i = .frStart 0 ∨ i = .waStart 0 → Safe s → ∃ t, RunEndsAt s 1 t)

/-! ### Invariants -/

/-- The memory of both buffers stays in canonical form inside its size. -/
def Obligations.StepKeepsBuffersCanonical : Prop :=
  ∀ s t : State, MemoryOk s → step s = .next t → MemoryOk t

/-- 42_framereader.md R166 and the like for every register (10_state.md R24, R35, R41): every step keeps the invariant. -/
def Obligations.StepKeepsInvariant : Prop :=
  ∀ s t : State, Inv s → step s = .next t → Inv t

/-- The invariants hold at reset, in every well-formed configuration and with any input to come. -/
def Obligations.ResetMeetsTheInvariants : Prop :=
  ∀ (p : Config.Params) (inputs : List Record), Config.wellFormed p = true →
    Inv { State.resetWith p with pending := inputs } ∧ OutcomeOk (State.resetWith p) ∧
      RegistersDescribeBytes (State.resetWith p) ∧ HandshakeSendsCommand (State.resetWith p)

/-- From a state that meets the invariant no step ends in a model fault (log 9). -/
def Obligations.InvariantExcludesModelFaults : Prop :=
  ∀ (s : State) (f : Fault), Inv s → step s ≠ .fault f

/-- 60_exceptions.md R221, 43_handshake.md R200: every step keeps RESULT, CAUSE and LAST_OP in agreement with a
row of the table of outcomes, a size as RESULT within 16 bits. -/
def Obligations.StepKeepsOutcomeTable : Prop :=
  ∀ s t : State, OutcomeOk s → step s = .next t → OutcomeOk t

/-- 30_encoding.md R82, R83, 42_framereader.md R155, R158, R159: every step keeps the frame registers what the bytes stored
by the running read say. -/
def Obligations.StepKeepsRegistersDescribeBytes : Prop :=
  ∀ s t : State, Inv s → RegistersDescribeBytes s → step s = .next t → RegistersDescribeBytes t

/-- 43_handshake.md R192-R194, R204: every step keeps what a handshake has sent since its flush a first part of ROM_CMD, and
all of it once it reads; the bytes of ROM_CMD are those of 10_state.md R49. -/
def Obligations.StepKeepsHandshakeSendsCommand : Prop :=
  Config.romCmd = [0xFD, 0x00, 0x03, 0x00, 0x00, 0x03, 0x18, 0x0A] ∧
  ∀ s t : State, WriteOk s → HandshakeSendsCommand s → step s = .next t → HandshakeSendsCommand t
end

