-- ==== Sys2Proof/Laws/Encoding.lean ====
section
/-! SUPPORT. The fields of an assembled record, and the number a record is: what the round trips of the encoding rest on. -/

namespace Sys2Proof

/-- A field cut out of a bit vector, as a number. -/
theorem toNat_extractLsb'_div {w : Nat} (x : BitVec w) (lo n : Nat) :
    (x.extractLsb' lo n).toNat = x.toNat / 2 ^ lo % 2 ^ n := by
  simp [BitVec.extractLsb'_toNat, Nat.shiftRight_eq_div_pow]

/-- Two parts put together, as a number. -/
theorem toNat_append_eq {m n : Nat} (x : BitVec m) (y : BitVec n) : (x ++ y).toNat = x.toNat * 2 ^ n + y.toNat := by
  rw [BitVec.toNat_append, Nat.shiftLeft_eq, Nat.mul_comm, Nat.two_pow_add_eq_or_of_lt y.isLt]

theorem toNat_cmdWord (op : BitVec 4) (arg : Half) : (cmdWord op arg).toNat = op.toNat * 2 ^ 28 + arg.toNat := by
  have h : (cmdWord op arg).toNat = (op.toNat * 2 ^ 12 + (0#12).toNat) * 2 ^ 16 + arg.toNat := by
    unfold cmdWord
    rw [← toNat_append_eq op 0#12]
    exact toNat_append_eq (op ++ 0#12) arg
  rw [h, BitVec.toNat_zero]
  omega

theorem toNat_eventRecord (kind : BitVec 4) (payload : Word) :
    (eventRecord kind payload).toNat = kind.toNat * 2 ^ 32 + payload.toNat := toNat_append_eq kind payload

theorem toNat_busRecord (write : BitVec 1) (size : BitVec 2) (addr : HostAddr) (data : Word) :
    (busRecord write size addr data).toNat =
      write.toNat * 2 ^ 52 + size.toNat * 2 ^ 50 + addr.toNat * 2 ^ 32 + data.toNat := by
  have h : (busRecord write size addr data).toNat =
      ((write.toNat * 2 ^ 2 + size.toNat) * 2 ^ 18 + addr.toNat) * 2 ^ 32 + data.toNat := by
    unfold busRecord
    rw [← toNat_append_eq write size, ← toNat_append_eq (write ++ size) addr]
    exact toNat_append_eq (write ++ size ++ addr) data
  rw [h]
  omega

@[simp] theorem cmdWord_op (op : BitVec 4) (arg : Half) : (cmdWord op arg).extractLsb' 28 4 = op := by
  apply BitVec.eq_of_toNat_eq
  rw [toNat_extractLsb'_div, toNat_cmdWord]
  have := op.isLt; have := arg.isLt; omega

@[simp] theorem cmdWord_rsv (op : BitVec 4) (arg : Half) : (cmdWord op arg).extractLsb' 16 12 = 0#12 := by
  apply BitVec.eq_of_toNat_eq
  rw [toNat_extractLsb'_div, toNat_cmdWord, BitVec.toNat_zero]
  have := op.isLt; have := arg.isLt; omega

@[simp] theorem cmdWord_arg (op : BitVec 4) (arg : Half) : (cmdWord op arg).extractLsb' 0 16 = arg := by
  apply BitVec.eq_of_toNat_eq
  rw [toNat_extractLsb'_div, toNat_cmdWord]
  have := op.isLt; have := arg.isLt; omega

@[simp] theorem eventRecord_kind (kind : BitVec 4) (payload : Word) :
    (eventRecord kind payload).extractLsb' 32 4 = kind := by
  apply BitVec.eq_of_toNat_eq
  rw [toNat_extractLsb'_div, toNat_eventRecord]
  have := kind.isLt; have := payload.isLt; omega

@[simp] theorem eventRecord_payload (kind : BitVec 4) (payload : Word) :
    (eventRecord kind payload).extractLsb' 0 32 = payload := by
  apply BitVec.eq_of_toNat_eq
  rw [toNat_extractLsb'_div, toNat_eventRecord]
  have := kind.isLt; have := payload.isLt; omega

@[simp] theorem busRecord_size (write : BitVec 1) (size : BitVec 2) (addr : HostAddr) (data : Word) :
    (busRecord write size addr data).extractLsb' 50 2 = size := by
  apply BitVec.eq_of_toNat_eq
  rw [toNat_extractLsb'_div, toNat_busRecord]
  have := write.isLt; have := size.isLt; have := addr.isLt; have := data.isLt; omega

@[simp] theorem busRecord_addr (write : BitVec 1) (size : BitVec 2) (addr : HostAddr) (data : Word) :
    (busRecord write size addr data).extractLsb' 32 18 = addr := by
  apply BitVec.eq_of_toNat_eq
  rw [toNat_extractLsb'_div, toNat_busRecord]
  have := write.isLt; have := size.isLt; have := addr.isLt; have := data.isLt; omega

@[simp] theorem busRecord_data (write : BitVec 1) (size : BitVec 2) (addr : HostAddr) (data : Word) :
    (busRecord write size addr data).extractLsb' 0 32 = data := by
  apply BitVec.eq_of_toNat_eq
  rw [toNat_extractLsb'_div, toNat_busRecord]
  have := write.isLt; have := size.isLt; have := addr.isLt; have := data.isLt; omega

/-- W is bit 52. -/
theorem busRecord_write (write : BitVec 1) (size : BitVec 2) (addr : HostAddr) (data : Word) :
    (busRecord write size addr data).getLsbD 52 = decide (write = 1#1) := by
  have h : (busRecord write size addr data).toNat / 2 ^ 52 = write.toNat := by
    rw [toNat_busRecord]
    have := write.isLt; have := size.isLt; have := addr.isLt; have := data.isLt; omega
  rw [BitVec.getLsbD, Nat.testBit, Nat.shiftRight_eq_div_pow, h]
  obtain rfl | rfl := BitVec.eq_zero_or_eq_one write <;> rfl

/-- A byte in the low end of a 32-bit field. -/
@[simp] theorem zeroExtend8_low (b : Byte) : (0#24 ++ b : Word).extractLsb' 0 8 = b := by
  apply BitVec.eq_of_toNat_eq
  have h : (0#24 ++ b : Word).toNat = (0#24).toNat * 2 ^ 8 + b.toNat := toNat_append_eq 0#24 b
  rw [toNat_extractLsb'_div, h, BitVec.toNat_zero]
  have := b.isLt; omega

@[simp] theorem zeroExtend8_high (b : Byte) : (0#24 ++ b : Word).extractLsb' 8 24 = 0#24 := by
  apply BitVec.eq_of_toNat_eq
  have h : (0#24 ++ b : Word).toNat = (0#24).toNat * 2 ^ 8 + b.toNat := toNat_append_eq 0#24 b
  rw [toNat_extractLsb'_div, h, BitVec.toNat_zero]
  have := b.isLt; omega

end Sys2Proof
end

