-- ==== Sys2Proof/Laws/State.lean ====
section
/-! SUPPORT. What each update of the state leaves in each field: one lemma per field per update, so that no proof unfolds a
record update. -/

namespace Sys2Proof.Machine

/-! ### rxStore -/

@[simp] theorem rxStore_seq (i : Nat) (b : Byte) (s : State) : (rxStore i b s).seq = s.seq := rfl
@[simp] theorem rxStore_done (i : Nat) (b : Byte) (s : State) : (rxStore i b s).done = s.done := rfl
@[simp] theorem rxStore_fault (i : Nat) (b : Byte) (s : State) : (rxStore i b s).fault = s.fault := rfl
@[simp] theorem rxStore_cancelPending (i : Nat) (b : Byte) (s : State) : (rxStore i b s).cancelPending = s.cancelPending := rfl
@[simp] theorem rxStore_lastOp (i : Nat) (b : Byte) (s : State) : (rxStore i b s).lastOp = s.lastOp := rfl
@[simp] theorem rxStore_cause (i : Nat) (b : Byte) (s : State) : (rxStore i b s).cause = s.cause := rfl
@[simp] theorem rxStore_faultCause (i : Nat) (b : Byte) (s : State) : (rxStore i b s).faultCause = s.faultCause := rfl
@[simp] theorem rxStore_result (i : Nat) (b : Byte) (s : State) : (rxStore i b s).result = s.result := rfl
@[simp] theorem rxStore_debugEn (i : Nat) (b : Byte) (s : State) : (rxStore i b s).debugEn = s.debugEn := rfl
@[simp] theorem rxStore_irqEn (i : Nat) (b : Byte) (s : State) : (rxStore i b s).irqEn = s.irqEn := rfl
@[simp] theorem rxStore_hsLimit (i : Nat) (b : Byte) (s : State) : (rxStore i b s).hsLimit = s.hsLimit := rfl
@[simp] theorem rxStore_hsAttempts (i : Nat) (b : Byte) (s : State) : (rxStore i b s).hsAttempts = s.hsAttempts := rfl
@[simp] theorem rxStore_frRes (i : Nat) (b : Byte) (s : State) : (rxStore i b s).frRes = s.frRes := rfl
@[simp] theorem rxStore_frEscCnt (i : Nat) (b : Byte) (s : State) : (rxStore i b s).frEscCnt = s.frEscCnt := rfl
@[simp] theorem rxStore_frLen (i : Nat) (b : Byte) (s : State) : (rxStore i b s).frLen = s.frLen := rfl
@[simp] theorem rxStore_frHaveLen (i : Nat) (b : Byte) (s : State) : (rxStore i b s).frHaveLen = s.frHaveLen := rfl
@[simp] theorem rxStore_frEscFlag (i : Nat) (b : Byte) (s : State) : (rxStore i b s).frEscFlag = s.frEscFlag := rfl
@[simp] theorem rxStore_frCnt (i : Nat) (b : Byte) (s : State) : (rxStore i b s).frCnt = s.frCnt := rfl
@[simp] theorem rxStore_frBufsize (i : Nat) (b : Byte) (s : State) : (rxStore i b s).frBufsize = s.frBufsize := rfl
@[simp] theorem rxStore_waOff (i : Nat) (b : Byte) (s : State) : (rxStore i b s).waOff = s.waOff := rfl
@[simp] theorem rxStore_waLen (i : Nat) (b : Byte) (s : State) : (rxStore i b s).waLen = s.waLen := rfl
@[simp] theorem rxStore_rxbuf (i : Nat) (b : Byte) (s : State) : (rxStore i b s).rxbuf = memInsert s.rxbuf i b := rfl
@[simp] theorem rxStore_txbuf (i : Nat) (b : Byte) (s : State) : (rxStore i b s).txbuf = s.txbuf := rfl
@[simp] theorem rxStore_events (i : Nat) (b : Byte) (s : State) : (rxStore i b s).events = s.events := rfl
@[simp] theorem rxStore_cfg (i : Nat) (b : Byte) (s : State) : (rxStore i b s).cfg = s.cfg := rfl
@[simp] theorem rxStore_rxDraw (i : Nat) (b : Byte) (s : State) : (rxStore i b s).rxDraw = s.rxDraw := rfl
@[simp] theorem rxStore_txDraw (i : Nat) (b : Byte) (s : State) : (rxStore i b s).txDraw = s.txDraw := rfl
@[simp] theorem rxStore_answer (i : Nat) (b : Byte) (s : State) : (rxStore i b s).answer = s.answer := rfl
@[simp] theorem rxStore_pending (i : Nat) (b : Byte) (s : State) : (rxStore i b s).pending = s.pending := rfl

/-! ### rxClear -/

@[simp] theorem rxClear_seq (s : State) : (rxClear s).seq = s.seq := rfl
@[simp] theorem rxClear_done (s : State) : (rxClear s).done = s.done := rfl
@[simp] theorem rxClear_fault (s : State) : (rxClear s).fault = s.fault := rfl
@[simp] theorem rxClear_cancelPending (s : State) : (rxClear s).cancelPending = s.cancelPending := rfl
@[simp] theorem rxClear_lastOp (s : State) : (rxClear s).lastOp = s.lastOp := rfl
@[simp] theorem rxClear_cause (s : State) : (rxClear s).cause = s.cause := rfl
@[simp] theorem rxClear_faultCause (s : State) : (rxClear s).faultCause = s.faultCause := rfl
@[simp] theorem rxClear_result (s : State) : (rxClear s).result = s.result := rfl
@[simp] theorem rxClear_debugEn (s : State) : (rxClear s).debugEn = s.debugEn := rfl
@[simp] theorem rxClear_irqEn (s : State) : (rxClear s).irqEn = s.irqEn := rfl
@[simp] theorem rxClear_hsLimit (s : State) : (rxClear s).hsLimit = s.hsLimit := rfl
@[simp] theorem rxClear_hsAttempts (s : State) : (rxClear s).hsAttempts = s.hsAttempts := rfl
@[simp] theorem rxClear_frRes (s : State) : (rxClear s).frRes = s.frRes := rfl
@[simp] theorem rxClear_frEscCnt (s : State) : (rxClear s).frEscCnt = s.frEscCnt := rfl
@[simp] theorem rxClear_frLen (s : State) : (rxClear s).frLen = s.frLen := rfl
@[simp] theorem rxClear_frHaveLen (s : State) : (rxClear s).frHaveLen = s.frHaveLen := rfl
@[simp] theorem rxClear_frEscFlag (s : State) : (rxClear s).frEscFlag = s.frEscFlag := rfl
@[simp] theorem rxClear_frCnt (s : State) : (rxClear s).frCnt = s.frCnt := rfl
@[simp] theorem rxClear_frBufsize (s : State) : (rxClear s).frBufsize = s.frBufsize := rfl
@[simp] theorem rxClear_waOff (s : State) : (rxClear s).waOff = s.waOff := rfl
@[simp] theorem rxClear_waLen (s : State) : (rxClear s).waLen = s.waLen := rfl
@[simp] theorem rxClear_rxbuf (s : State) : (rxClear s).rxbuf = [] := rfl
@[simp] theorem rxClear_txbuf (s : State) : (rxClear s).txbuf = s.txbuf := rfl
@[simp] theorem rxClear_events (s : State) : (rxClear s).events = s.events := rfl
@[simp] theorem rxClear_cfg (s : State) : (rxClear s).cfg = s.cfg := rfl
@[simp] theorem rxClear_rxDraw (s : State) : (rxClear s).rxDraw = s.rxDraw + 1 := rfl
@[simp] theorem rxClear_txDraw (s : State) : (rxClear s).txDraw = s.txDraw := rfl
@[simp] theorem rxClear_answer (s : State) : (rxClear s).answer = s.answer := rfl
@[simp] theorem rxClear_pending (s : State) : (rxClear s).pending = s.pending := rfl

/-! ### txStore -/

@[simp] theorem txStore_seq (i : Nat) (b : Byte) (s : State) : (txStore i b s).seq = s.seq := rfl
@[simp] theorem txStore_done (i : Nat) (b : Byte) (s : State) : (txStore i b s).done = s.done := rfl
@[simp] theorem txStore_fault (i : Nat) (b : Byte) (s : State) : (txStore i b s).fault = s.fault := rfl
@[simp] theorem txStore_cancelPending (i : Nat) (b : Byte) (s : State) : (txStore i b s).cancelPending = s.cancelPending := rfl
@[simp] theorem txStore_lastOp (i : Nat) (b : Byte) (s : State) : (txStore i b s).lastOp = s.lastOp := rfl
@[simp] theorem txStore_cause (i : Nat) (b : Byte) (s : State) : (txStore i b s).cause = s.cause := rfl
@[simp] theorem txStore_faultCause (i : Nat) (b : Byte) (s : State) : (txStore i b s).faultCause = s.faultCause := rfl
@[simp] theorem txStore_result (i : Nat) (b : Byte) (s : State) : (txStore i b s).result = s.result := rfl
@[simp] theorem txStore_debugEn (i : Nat) (b : Byte) (s : State) : (txStore i b s).debugEn = s.debugEn := rfl
@[simp] theorem txStore_irqEn (i : Nat) (b : Byte) (s : State) : (txStore i b s).irqEn = s.irqEn := rfl
@[simp] theorem txStore_hsLimit (i : Nat) (b : Byte) (s : State) : (txStore i b s).hsLimit = s.hsLimit := rfl
@[simp] theorem txStore_hsAttempts (i : Nat) (b : Byte) (s : State) : (txStore i b s).hsAttempts = s.hsAttempts := rfl
@[simp] theorem txStore_frRes (i : Nat) (b : Byte) (s : State) : (txStore i b s).frRes = s.frRes := rfl
@[simp] theorem txStore_frEscCnt (i : Nat) (b : Byte) (s : State) : (txStore i b s).frEscCnt = s.frEscCnt := rfl
@[simp] theorem txStore_frLen (i : Nat) (b : Byte) (s : State) : (txStore i b s).frLen = s.frLen := rfl
@[simp] theorem txStore_frHaveLen (i : Nat) (b : Byte) (s : State) : (txStore i b s).frHaveLen = s.frHaveLen := rfl
@[simp] theorem txStore_frEscFlag (i : Nat) (b : Byte) (s : State) : (txStore i b s).frEscFlag = s.frEscFlag := rfl
@[simp] theorem txStore_frCnt (i : Nat) (b : Byte) (s : State) : (txStore i b s).frCnt = s.frCnt := rfl
@[simp] theorem txStore_frBufsize (i : Nat) (b : Byte) (s : State) : (txStore i b s).frBufsize = s.frBufsize := rfl
@[simp] theorem txStore_waOff (i : Nat) (b : Byte) (s : State) : (txStore i b s).waOff = s.waOff := rfl
@[simp] theorem txStore_waLen (i : Nat) (b : Byte) (s : State) : (txStore i b s).waLen = s.waLen := rfl
@[simp] theorem txStore_rxbuf (i : Nat) (b : Byte) (s : State) : (txStore i b s).rxbuf = s.rxbuf := rfl
@[simp] theorem txStore_txbuf (i : Nat) (b : Byte) (s : State) : (txStore i b s).txbuf = memInsert s.txbuf i b := rfl
@[simp] theorem txStore_events (i : Nat) (b : Byte) (s : State) : (txStore i b s).events = s.events := rfl
@[simp] theorem txStore_cfg (i : Nat) (b : Byte) (s : State) : (txStore i b s).cfg = s.cfg := rfl
@[simp] theorem txStore_rxDraw (i : Nat) (b : Byte) (s : State) : (txStore i b s).rxDraw = s.rxDraw := rfl
@[simp] theorem txStore_txDraw (i : Nat) (b : Byte) (s : State) : (txStore i b s).txDraw = s.txDraw := rfl
@[simp] theorem txStore_answer (i : Nat) (b : Byte) (s : State) : (txStore i b s).answer = s.answer := rfl
@[simp] theorem txStore_pending (i : Nat) (b : Byte) (s : State) : (txStore i b s).pending = s.pending := rfl

/-! ### emit -/

@[simp] theorem emit_seq (e : Event) (s : State) : (emit e s).seq = s.seq := rfl
@[simp] theorem emit_done (e : Event) (s : State) : (emit e s).done = s.done := rfl
@[simp] theorem emit_fault (e : Event) (s : State) : (emit e s).fault = s.fault := rfl
@[simp] theorem emit_cancelPending (e : Event) (s : State) : (emit e s).cancelPending = s.cancelPending := rfl
@[simp] theorem emit_lastOp (e : Event) (s : State) : (emit e s).lastOp = s.lastOp := rfl
@[simp] theorem emit_cause (e : Event) (s : State) : (emit e s).cause = s.cause := rfl
@[simp] theorem emit_faultCause (e : Event) (s : State) : (emit e s).faultCause = s.faultCause := rfl
@[simp] theorem emit_result (e : Event) (s : State) : (emit e s).result = s.result := rfl
@[simp] theorem emit_debugEn (e : Event) (s : State) : (emit e s).debugEn = s.debugEn := rfl
@[simp] theorem emit_irqEn (e : Event) (s : State) : (emit e s).irqEn = s.irqEn := rfl
@[simp] theorem emit_hsLimit (e : Event) (s : State) : (emit e s).hsLimit = s.hsLimit := rfl
@[simp] theorem emit_hsAttempts (e : Event) (s : State) : (emit e s).hsAttempts = s.hsAttempts := rfl
@[simp] theorem emit_frRes (e : Event) (s : State) : (emit e s).frRes = s.frRes := rfl
@[simp] theorem emit_frEscCnt (e : Event) (s : State) : (emit e s).frEscCnt = s.frEscCnt := rfl
@[simp] theorem emit_frLen (e : Event) (s : State) : (emit e s).frLen = s.frLen := rfl
@[simp] theorem emit_frHaveLen (e : Event) (s : State) : (emit e s).frHaveLen = s.frHaveLen := rfl
@[simp] theorem emit_frEscFlag (e : Event) (s : State) : (emit e s).frEscFlag = s.frEscFlag := rfl
@[simp] theorem emit_frCnt (e : Event) (s : State) : (emit e s).frCnt = s.frCnt := rfl
@[simp] theorem emit_frBufsize (e : Event) (s : State) : (emit e s).frBufsize = s.frBufsize := rfl
@[simp] theorem emit_waOff (e : Event) (s : State) : (emit e s).waOff = s.waOff := rfl
@[simp] theorem emit_waLen (e : Event) (s : State) : (emit e s).waLen = s.waLen := rfl
@[simp] theorem emit_rxbuf (e : Event) (s : State) : (emit e s).rxbuf = s.rxbuf := rfl
@[simp] theorem emit_txbuf (e : Event) (s : State) : (emit e s).txbuf = s.txbuf := rfl
@[simp] theorem emit_events (e : Event) (s : State) : (emit e s).events = s.events ++ [e] := rfl
@[simp] theorem emit_cfg (e : Event) (s : State) : (emit e s).cfg = s.cfg := rfl
@[simp] theorem emit_rxDraw (e : Event) (s : State) : (emit e s).rxDraw = s.rxDraw := rfl
@[simp] theorem emit_txDraw (e : Event) (s : State) : (emit e s).txDraw = s.txDraw := rfl
@[simp] theorem emit_answer (e : Event) (s : State) : (emit e s).answer = s.answer := rfl
@[simp] theorem emit_pending (e : Event) (s : State) : (emit e s).pending = s.pending := rfl

/-! ### raiseFault -/

@[simp] theorem raiseFault_seq (c : FaultCause) (s : State) : (raiseFault c s).seq = s.seq := rfl
@[simp] theorem raiseFault_done (c : FaultCause) (s : State) : (raiseFault c s).done = s.done := rfl
@[simp] theorem raiseFault_fault (c : FaultCause) (s : State) : (raiseFault c s).fault = true := rfl
@[simp] theorem raiseFault_cancelPending (c : FaultCause) (s : State) : (raiseFault c s).cancelPending = s.cancelPending := rfl
@[simp] theorem raiseFault_lastOp (c : FaultCause) (s : State) : (raiseFault c s).lastOp = s.lastOp := rfl
@[simp] theorem raiseFault_cause (c : FaultCause) (s : State) : (raiseFault c s).cause = s.cause := rfl
@[simp] theorem raiseFault_faultCause (c : FaultCause) (s : State) : (raiseFault c s).faultCause = if s.fault then s.faultCause else c := rfl
@[simp] theorem raiseFault_result (c : FaultCause) (s : State) : (raiseFault c s).result = s.result := rfl
@[simp] theorem raiseFault_debugEn (c : FaultCause) (s : State) : (raiseFault c s).debugEn = s.debugEn := rfl
@[simp] theorem raiseFault_irqEn (c : FaultCause) (s : State) : (raiseFault c s).irqEn = s.irqEn := rfl
@[simp] theorem raiseFault_hsLimit (c : FaultCause) (s : State) : (raiseFault c s).hsLimit = s.hsLimit := rfl
@[simp] theorem raiseFault_hsAttempts (c : FaultCause) (s : State) : (raiseFault c s).hsAttempts = s.hsAttempts := rfl
@[simp] theorem raiseFault_frRes (c : FaultCause) (s : State) : (raiseFault c s).frRes = s.frRes := rfl
@[simp] theorem raiseFault_frEscCnt (c : FaultCause) (s : State) : (raiseFault c s).frEscCnt = s.frEscCnt := rfl
@[simp] theorem raiseFault_frLen (c : FaultCause) (s : State) : (raiseFault c s).frLen = s.frLen := rfl
@[simp] theorem raiseFault_frHaveLen (c : FaultCause) (s : State) : (raiseFault c s).frHaveLen = s.frHaveLen := rfl
@[simp] theorem raiseFault_frEscFlag (c : FaultCause) (s : State) : (raiseFault c s).frEscFlag = s.frEscFlag := rfl
@[simp] theorem raiseFault_frCnt (c : FaultCause) (s : State) : (raiseFault c s).frCnt = s.frCnt := rfl
@[simp] theorem raiseFault_frBufsize (c : FaultCause) (s : State) : (raiseFault c s).frBufsize = s.frBufsize := rfl
@[simp] theorem raiseFault_waOff (c : FaultCause) (s : State) : (raiseFault c s).waOff = s.waOff := rfl
@[simp] theorem raiseFault_waLen (c : FaultCause) (s : State) : (raiseFault c s).waLen = s.waLen := rfl
@[simp] theorem raiseFault_rxbuf (c : FaultCause) (s : State) : (raiseFault c s).rxbuf = s.rxbuf := rfl
@[simp] theorem raiseFault_txbuf (c : FaultCause) (s : State) : (raiseFault c s).txbuf = s.txbuf := rfl
@[simp] theorem raiseFault_events (c : FaultCause) (s : State) : (raiseFault c s).events = s.events := rfl
@[simp] theorem raiseFault_cfg (c : FaultCause) (s : State) : (raiseFault c s).cfg = s.cfg := rfl
@[simp] theorem raiseFault_rxDraw (c : FaultCause) (s : State) : (raiseFault c s).rxDraw = s.rxDraw := rfl
@[simp] theorem raiseFault_txDraw (c : FaultCause) (s : State) : (raiseFault c s).txDraw = s.txDraw := rfl
@[simp] theorem raiseFault_answer (c : FaultCause) (s : State) : (raiseFault c s).answer = s.answer := rfl
@[simp] theorem raiseFault_pending (c : FaultCause) (s : State) : (raiseFault c s).pending = s.pending := rfl

/-! ### endOp -/

@[simp] theorem endOp_seq (op : LastOp) (r : Word) (c : Cause) (s : State) : (endOp op r c s).seq = .idle := rfl
@[simp] theorem endOp_done (op : LastOp) (r : Word) (c : Cause) (s : State) : (endOp op r c s).done = true := rfl
@[simp] theorem endOp_fault (op : LastOp) (r : Word) (c : Cause) (s : State) : (endOp op r c s).fault = s.fault := rfl
@[simp] theorem endOp_cancelPending (op : LastOp) (r : Word) (c : Cause) (s : State) : (endOp op r c s).cancelPending = false := rfl
@[simp] theorem endOp_lastOp (op : LastOp) (r : Word) (c : Cause) (s : State) : (endOp op r c s).lastOp = op := rfl
@[simp] theorem endOp_cause (op : LastOp) (r : Word) (c : Cause) (s : State) : (endOp op r c s).cause = c := rfl
@[simp] theorem endOp_faultCause (op : LastOp) (r : Word) (c : Cause) (s : State) : (endOp op r c s).faultCause = s.faultCause := rfl
@[simp] theorem endOp_result (op : LastOp) (r : Word) (c : Cause) (s : State) : (endOp op r c s).result = r := rfl
@[simp] theorem endOp_debugEn (op : LastOp) (r : Word) (c : Cause) (s : State) : (endOp op r c s).debugEn = s.debugEn := rfl
@[simp] theorem endOp_irqEn (op : LastOp) (r : Word) (c : Cause) (s : State) : (endOp op r c s).irqEn = s.irqEn := rfl
@[simp] theorem endOp_hsLimit (op : LastOp) (r : Word) (c : Cause) (s : State) : (endOp op r c s).hsLimit = s.hsLimit := rfl
@[simp] theorem endOp_hsAttempts (op : LastOp) (r : Word) (c : Cause) (s : State) : (endOp op r c s).hsAttempts = s.hsAttempts := rfl
@[simp] theorem endOp_frRes (op : LastOp) (r : Word) (c : Cause) (s : State) : (endOp op r c s).frRes = s.frRes := rfl
@[simp] theorem endOp_frEscCnt (op : LastOp) (r : Word) (c : Cause) (s : State) : (endOp op r c s).frEscCnt = s.frEscCnt := rfl
@[simp] theorem endOp_frLen (op : LastOp) (r : Word) (c : Cause) (s : State) : (endOp op r c s).frLen = s.frLen := rfl
@[simp] theorem endOp_frHaveLen (op : LastOp) (r : Word) (c : Cause) (s : State) : (endOp op r c s).frHaveLen = s.frHaveLen := rfl
@[simp] theorem endOp_frEscFlag (op : LastOp) (r : Word) (c : Cause) (s : State) : (endOp op r c s).frEscFlag = s.frEscFlag := rfl
@[simp] theorem endOp_frCnt (op : LastOp) (r : Word) (c : Cause) (s : State) : (endOp op r c s).frCnt = s.frCnt := rfl
@[simp] theorem endOp_frBufsize (op : LastOp) (r : Word) (c : Cause) (s : State) : (endOp op r c s).frBufsize = s.frBufsize := rfl
@[simp] theorem endOp_waOff (op : LastOp) (r : Word) (c : Cause) (s : State) : (endOp op r c s).waOff = s.waOff := rfl
@[simp] theorem endOp_waLen (op : LastOp) (r : Word) (c : Cause) (s : State) : (endOp op r c s).waLen = s.waLen := rfl
@[simp] theorem endOp_rxbuf (op : LastOp) (r : Word) (c : Cause) (s : State) : (endOp op r c s).rxbuf = s.rxbuf := rfl
@[simp] theorem endOp_txbuf (op : LastOp) (r : Word) (c : Cause) (s : State) : (endOp op r c s).txbuf = s.txbuf := rfl
@[simp] theorem endOp_events (op : LastOp) (r : Word) (c : Cause) (s : State) : (endOp op r c s).events = s.events := rfl
@[simp] theorem endOp_cfg (op : LastOp) (r : Word) (c : Cause) (s : State) : (endOp op r c s).cfg = s.cfg := rfl
@[simp] theorem endOp_rxDraw (op : LastOp) (r : Word) (c : Cause) (s : State) : (endOp op r c s).rxDraw = s.rxDraw := rfl
@[simp] theorem endOp_txDraw (op : LastOp) (r : Word) (c : Cause) (s : State) : (endOp op r c s).txDraw = s.txDraw := rfl
@[simp] theorem endOp_answer (op : LastOp) (r : Word) (c : Cause) (s : State) : (endOp op r c s).answer = s.answer := rfl
@[simp] theorem endOp_pending (op : LastOp) (r : Word) (c : Cause) (s : State) : (endOp op r c s).pending = s.pending := rfl

/-! ### giveAnswer -/

@[simp] theorem giveAnswer_seq (w : Word) (s : State) : (giveAnswer w s).seq = s.seq := rfl
@[simp] theorem giveAnswer_done (w : Word) (s : State) : (giveAnswer w s).done = s.done := rfl
@[simp] theorem giveAnswer_fault (w : Word) (s : State) : (giveAnswer w s).fault = s.fault := rfl
@[simp] theorem giveAnswer_cancelPending (w : Word) (s : State) : (giveAnswer w s).cancelPending = s.cancelPending := rfl
@[simp] theorem giveAnswer_lastOp (w : Word) (s : State) : (giveAnswer w s).lastOp = s.lastOp := rfl
@[simp] theorem giveAnswer_cause (w : Word) (s : State) : (giveAnswer w s).cause = s.cause := rfl
@[simp] theorem giveAnswer_faultCause (w : Word) (s : State) : (giveAnswer w s).faultCause = s.faultCause := rfl
@[simp] theorem giveAnswer_result (w : Word) (s : State) : (giveAnswer w s).result = s.result := rfl
@[simp] theorem giveAnswer_debugEn (w : Word) (s : State) : (giveAnswer w s).debugEn = s.debugEn := rfl
@[simp] theorem giveAnswer_irqEn (w : Word) (s : State) : (giveAnswer w s).irqEn = s.irqEn := rfl
@[simp] theorem giveAnswer_hsLimit (w : Word) (s : State) : (giveAnswer w s).hsLimit = s.hsLimit := rfl
@[simp] theorem giveAnswer_hsAttempts (w : Word) (s : State) : (giveAnswer w s).hsAttempts = s.hsAttempts := rfl
@[simp] theorem giveAnswer_frRes (w : Word) (s : State) : (giveAnswer w s).frRes = s.frRes := rfl
@[simp] theorem giveAnswer_frEscCnt (w : Word) (s : State) : (giveAnswer w s).frEscCnt = s.frEscCnt := rfl
@[simp] theorem giveAnswer_frLen (w : Word) (s : State) : (giveAnswer w s).frLen = s.frLen := rfl
@[simp] theorem giveAnswer_frHaveLen (w : Word) (s : State) : (giveAnswer w s).frHaveLen = s.frHaveLen := rfl
@[simp] theorem giveAnswer_frEscFlag (w : Word) (s : State) : (giveAnswer w s).frEscFlag = s.frEscFlag := rfl
@[simp] theorem giveAnswer_frCnt (w : Word) (s : State) : (giveAnswer w s).frCnt = s.frCnt := rfl
@[simp] theorem giveAnswer_frBufsize (w : Word) (s : State) : (giveAnswer w s).frBufsize = s.frBufsize := rfl
@[simp] theorem giveAnswer_waOff (w : Word) (s : State) : (giveAnswer w s).waOff = s.waOff := rfl
@[simp] theorem giveAnswer_waLen (w : Word) (s : State) : (giveAnswer w s).waLen = s.waLen := rfl
@[simp] theorem giveAnswer_rxbuf (w : Word) (s : State) : (giveAnswer w s).rxbuf = s.rxbuf := rfl
@[simp] theorem giveAnswer_txbuf (w : Word) (s : State) : (giveAnswer w s).txbuf = s.txbuf := rfl
@[simp] theorem giveAnswer_events (w : Word) (s : State) : (giveAnswer w s).events = s.events := rfl
@[simp] theorem giveAnswer_cfg (w : Word) (s : State) : (giveAnswer w s).cfg = s.cfg := rfl
@[simp] theorem giveAnswer_rxDraw (w : Word) (s : State) : (giveAnswer w s).rxDraw = s.rxDraw := rfl
@[simp] theorem giveAnswer_txDraw (w : Word) (s : State) : (giveAnswer w s).txDraw = s.txDraw := rfl
@[simp] theorem giveAnswer_answer (w : Word) (s : State) : (giveAnswer w s).answer = some w := rfl
@[simp] theorem giveAnswer_pending (w : Word) (s : State) : (giveAnswer w s).pending = s.pending := rfl

/-! ### frRestart -/

@[simp] theorem frRestart_seq (s : State) : (frRestart s).seq = s.seq := rfl
@[simp] theorem frRestart_done (s : State) : (frRestart s).done = s.done := rfl
@[simp] theorem frRestart_fault (s : State) : (frRestart s).fault = s.fault := rfl
@[simp] theorem frRestart_cancelPending (s : State) : (frRestart s).cancelPending = s.cancelPending := rfl
@[simp] theorem frRestart_lastOp (s : State) : (frRestart s).lastOp = s.lastOp := rfl
@[simp] theorem frRestart_cause (s : State) : (frRestart s).cause = s.cause := rfl
@[simp] theorem frRestart_faultCause (s : State) : (frRestart s).faultCause = s.faultCause := rfl
@[simp] theorem frRestart_result (s : State) : (frRestart s).result = s.result := rfl
@[simp] theorem frRestart_debugEn (s : State) : (frRestart s).debugEn = s.debugEn := rfl
@[simp] theorem frRestart_irqEn (s : State) : (frRestart s).irqEn = s.irqEn := rfl
@[simp] theorem frRestart_hsLimit (s : State) : (frRestart s).hsLimit = s.hsLimit := rfl
@[simp] theorem frRestart_hsAttempts (s : State) : (frRestart s).hsAttempts = s.hsAttempts := rfl
@[simp] theorem frRestart_frRes (s : State) : (frRestart s).frRes = 0 := rfl
@[simp] theorem frRestart_frEscCnt (s : State) : (frRestart s).frEscCnt = 0 := rfl
@[simp] theorem frRestart_frLen (s : State) : (frRestart s).frLen = 0 := rfl
@[simp] theorem frRestart_frHaveLen (s : State) : (frRestart s).frHaveLen = false := rfl
@[simp] theorem frRestart_frEscFlag (s : State) : (frRestart s).frEscFlag = false := rfl
@[simp] theorem frRestart_frCnt (s : State) : (frRestart s).frCnt = s.frBufsize := rfl
@[simp] theorem frRestart_frBufsize (s : State) : (frRestart s).frBufsize = s.frBufsize := rfl
@[simp] theorem frRestart_waOff (s : State) : (frRestart s).waOff = s.waOff := rfl
@[simp] theorem frRestart_waLen (s : State) : (frRestart s).waLen = s.waLen := rfl
@[simp] theorem frRestart_rxbuf (s : State) : (frRestart s).rxbuf = [] := rfl
@[simp] theorem frRestart_txbuf (s : State) : (frRestart s).txbuf = s.txbuf := rfl
@[simp] theorem frRestart_events (s : State) : (frRestart s).events = s.events := rfl
@[simp] theorem frRestart_cfg (s : State) : (frRestart s).cfg = s.cfg := rfl
@[simp] theorem frRestart_rxDraw (s : State) : (frRestart s).rxDraw = s.rxDraw + 1 := rfl
@[simp] theorem frRestart_txDraw (s : State) : (frRestart s).txDraw = s.txDraw := rfl
@[simp] theorem frRestart_answer (s : State) : (frRestart s).answer = s.answer := rfl
@[simp] theorem frRestart_pending (s : State) : (frRestart s).pending = s.pending := rfl

/-! ### frMarker -/

@[simp] theorem frMarker_seq (s : State) : (frMarker s).seq = s.seq := rfl
@[simp] theorem frMarker_done (s : State) : (frMarker s).done = s.done := rfl
@[simp] theorem frMarker_fault (s : State) : (frMarker s).fault = s.fault := rfl
@[simp] theorem frMarker_cancelPending (s : State) : (frMarker s).cancelPending = s.cancelPending := rfl
@[simp] theorem frMarker_lastOp (s : State) : (frMarker s).lastOp = s.lastOp := rfl
@[simp] theorem frMarker_cause (s : State) : (frMarker s).cause = s.cause := rfl
@[simp] theorem frMarker_faultCause (s : State) : (frMarker s).faultCause = s.faultCause := rfl
@[simp] theorem frMarker_result (s : State) : (frMarker s).result = s.result := rfl
@[simp] theorem frMarker_debugEn (s : State) : (frMarker s).debugEn = s.debugEn := rfl
@[simp] theorem frMarker_irqEn (s : State) : (frMarker s).irqEn = s.irqEn := rfl
@[simp] theorem frMarker_hsLimit (s : State) : (frMarker s).hsLimit = s.hsLimit := rfl
@[simp] theorem frMarker_hsAttempts (s : State) : (frMarker s).hsAttempts = s.hsAttempts := rfl
@[simp] theorem frMarker_frRes (s : State) : (frMarker s).frRes = s.frRes := rfl
@[simp] theorem frMarker_frEscCnt (s : State) : (frMarker s).frEscCnt = s.frEscCnt + 1 := rfl
@[simp] theorem frMarker_frLen (s : State) : (frMarker s).frLen = s.frLen := rfl
@[simp] theorem frMarker_frHaveLen (s : State) : (frMarker s).frHaveLen = s.frHaveLen := rfl
@[simp] theorem frMarker_frEscFlag (s : State) : (frMarker s).frEscFlag = true := rfl
@[simp] theorem frMarker_frCnt (s : State) : (frMarker s).frCnt = s.frCnt := rfl
@[simp] theorem frMarker_frBufsize (s : State) : (frMarker s).frBufsize = s.frBufsize := rfl
@[simp] theorem frMarker_waOff (s : State) : (frMarker s).waOff = s.waOff := rfl
@[simp] theorem frMarker_waLen (s : State) : (frMarker s).waLen = s.waLen := rfl
@[simp] theorem frMarker_rxbuf (s : State) : (frMarker s).rxbuf = s.rxbuf := rfl
@[simp] theorem frMarker_txbuf (s : State) : (frMarker s).txbuf = s.txbuf := rfl
@[simp] theorem frMarker_events (s : State) : (frMarker s).events = s.events := rfl
@[simp] theorem frMarker_cfg (s : State) : (frMarker s).cfg = s.cfg := rfl
@[simp] theorem frMarker_rxDraw (s : State) : (frMarker s).rxDraw = s.rxDraw := rfl
@[simp] theorem frMarker_txDraw (s : State) : (frMarker s).txDraw = s.txDraw := rfl
@[simp] theorem frMarker_answer (s : State) : (frMarker s).answer = s.answer := rfl
@[simp] theorem frMarker_pending (s : State) : (frMarker s).pending = s.pending := rfl

/-! ### frStore -/

@[simp] theorem frStore_seq (i : Nat) (b : Byte) (s : State) : (frStore i b s).seq = s.seq := rfl
@[simp] theorem frStore_done (i : Nat) (b : Byte) (s : State) : (frStore i b s).done = s.done := rfl
@[simp] theorem frStore_fault (i : Nat) (b : Byte) (s : State) : (frStore i b s).fault = s.fault := rfl
@[simp] theorem frStore_cancelPending (i : Nat) (b : Byte) (s : State) : (frStore i b s).cancelPending = s.cancelPending := rfl
@[simp] theorem frStore_lastOp (i : Nat) (b : Byte) (s : State) : (frStore i b s).lastOp = s.lastOp := rfl
@[simp] theorem frStore_cause (i : Nat) (b : Byte) (s : State) : (frStore i b s).cause = s.cause := rfl
@[simp] theorem frStore_faultCause (i : Nat) (b : Byte) (s : State) : (frStore i b s).faultCause = s.faultCause := rfl
@[simp] theorem frStore_result (i : Nat) (b : Byte) (s : State) : (frStore i b s).result = s.result := rfl
@[simp] theorem frStore_debugEn (i : Nat) (b : Byte) (s : State) : (frStore i b s).debugEn = s.debugEn := rfl
@[simp] theorem frStore_irqEn (i : Nat) (b : Byte) (s : State) : (frStore i b s).irqEn = s.irqEn := rfl
@[simp] theorem frStore_hsLimit (i : Nat) (b : Byte) (s : State) : (frStore i b s).hsLimit = s.hsLimit := rfl
@[simp] theorem frStore_hsAttempts (i : Nat) (b : Byte) (s : State) : (frStore i b s).hsAttempts = s.hsAttempts := rfl
@[simp] theorem frStore_frRes (i : Nat) (b : Byte) (s : State) : (frStore i b s).frRes = s.frRes := rfl
@[simp] theorem frStore_frEscCnt (i : Nat) (b : Byte) (s : State) : (frStore i b s).frEscCnt = s.frEscCnt := rfl
@[simp] theorem frStore_frLen (i : Nat) (b : Byte) (s : State) : (frStore i b s).frLen = s.frLen := rfl
@[simp] theorem frStore_frHaveLen (i : Nat) (b : Byte) (s : State) : (frStore i b s).frHaveLen = s.frHaveLen := rfl
@[simp] theorem frStore_frEscFlag (i : Nat) (b : Byte) (s : State) : (frStore i b s).frEscFlag = s.frEscFlag := rfl
@[simp] theorem frStore_frCnt (i : Nat) (b : Byte) (s : State) : (frStore i b s).frCnt = s.frCnt - 1 := rfl
@[simp] theorem frStore_frBufsize (i : Nat) (b : Byte) (s : State) : (frStore i b s).frBufsize = s.frBufsize := rfl
@[simp] theorem frStore_waOff (i : Nat) (b : Byte) (s : State) : (frStore i b s).waOff = s.waOff := rfl
@[simp] theorem frStore_waLen (i : Nat) (b : Byte) (s : State) : (frStore i b s).waLen = s.waLen := rfl
@[simp] theorem frStore_rxbuf (i : Nat) (b : Byte) (s : State) : (frStore i b s).rxbuf = memInsert s.rxbuf i b := rfl
@[simp] theorem frStore_txbuf (i : Nat) (b : Byte) (s : State) : (frStore i b s).txbuf = s.txbuf := rfl
@[simp] theorem frStore_events (i : Nat) (b : Byte) (s : State) : (frStore i b s).events = s.events := rfl
@[simp] theorem frStore_cfg (i : Nat) (b : Byte) (s : State) : (frStore i b s).cfg = s.cfg := rfl
@[simp] theorem frStore_rxDraw (i : Nat) (b : Byte) (s : State) : (frStore i b s).rxDraw = s.rxDraw := rfl
@[simp] theorem frStore_txDraw (i : Nat) (b : Byte) (s : State) : (frStore i b s).txDraw = s.txDraw := rfl
@[simp] theorem frStore_answer (i : Nat) (b : Byte) (s : State) : (frStore i b s).answer = s.answer := rfl
@[simp] theorem frStore_pending (i : Nat) (b : Byte) (s : State) : (frStore i b s).pending = s.pending := rfl

/-! ### clearDone -/

@[simp] theorem clearDone_seq (s : State) : (clearDone s).seq = s.seq := rfl
@[simp] theorem clearDone_done (s : State) : (clearDone s).done = false := rfl
@[simp] theorem clearDone_fault (s : State) : (clearDone s).fault = s.fault := rfl
@[simp] theorem clearDone_cancelPending (s : State) : (clearDone s).cancelPending = s.cancelPending := rfl
@[simp] theorem clearDone_lastOp (s : State) : (clearDone s).lastOp = s.lastOp := rfl
@[simp] theorem clearDone_cause (s : State) : (clearDone s).cause = s.cause := rfl
@[simp] theorem clearDone_faultCause (s : State) : (clearDone s).faultCause = s.faultCause := rfl
@[simp] theorem clearDone_result (s : State) : (clearDone s).result = s.result := rfl
@[simp] theorem clearDone_debugEn (s : State) : (clearDone s).debugEn = s.debugEn := rfl
@[simp] theorem clearDone_irqEn (s : State) : (clearDone s).irqEn = s.irqEn := rfl
@[simp] theorem clearDone_hsLimit (s : State) : (clearDone s).hsLimit = s.hsLimit := rfl
@[simp] theorem clearDone_hsAttempts (s : State) : (clearDone s).hsAttempts = s.hsAttempts := rfl
@[simp] theorem clearDone_frRes (s : State) : (clearDone s).frRes = s.frRes := rfl
@[simp] theorem clearDone_frEscCnt (s : State) : (clearDone s).frEscCnt = s.frEscCnt := rfl
@[simp] theorem clearDone_frLen (s : State) : (clearDone s).frLen = s.frLen := rfl
@[simp] theorem clearDone_frHaveLen (s : State) : (clearDone s).frHaveLen = s.frHaveLen := rfl
@[simp] theorem clearDone_frEscFlag (s : State) : (clearDone s).frEscFlag = s.frEscFlag := rfl
@[simp] theorem clearDone_frCnt (s : State) : (clearDone s).frCnt = s.frCnt := rfl
@[simp] theorem clearDone_frBufsize (s : State) : (clearDone s).frBufsize = s.frBufsize := rfl
@[simp] theorem clearDone_waOff (s : State) : (clearDone s).waOff = s.waOff := rfl
@[simp] theorem clearDone_waLen (s : State) : (clearDone s).waLen = s.waLen := rfl
@[simp] theorem clearDone_rxbuf (s : State) : (clearDone s).rxbuf = s.rxbuf := rfl
@[simp] theorem clearDone_txbuf (s : State) : (clearDone s).txbuf = s.txbuf := rfl
@[simp] theorem clearDone_events (s : State) : (clearDone s).events = s.events := rfl
@[simp] theorem clearDone_cfg (s : State) : (clearDone s).cfg = s.cfg := rfl
@[simp] theorem clearDone_rxDraw (s : State) : (clearDone s).rxDraw = s.rxDraw := rfl
@[simp] theorem clearDone_txDraw (s : State) : (clearDone s).txDraw = s.txDraw := rfl
@[simp] theorem clearDone_answer (s : State) : (clearDone s).answer = s.answer := rfl
@[simp] theorem clearDone_pending (s : State) : (clearDone s).pending = s.pending := rfl

/-! ### enterDelay -/

@[simp] theorem enterDelay_seq (s : State) : (enterDelay s).seq = .hsDelay := rfl
@[simp] theorem enterDelay_done (s : State) : (enterDelay s).done = s.done := rfl
@[simp] theorem enterDelay_fault (s : State) : (enterDelay s).fault = s.fault := rfl
@[simp] theorem enterDelay_cancelPending (s : State) : (enterDelay s).cancelPending = s.cancelPending := rfl
@[simp] theorem enterDelay_lastOp (s : State) : (enterDelay s).lastOp = s.lastOp := rfl
@[simp] theorem enterDelay_cause (s : State) : (enterDelay s).cause = s.cause := rfl
@[simp] theorem enterDelay_faultCause (s : State) : (enterDelay s).faultCause = s.faultCause := rfl
@[simp] theorem enterDelay_result (s : State) : (enterDelay s).result = s.result := rfl
@[simp] theorem enterDelay_debugEn (s : State) : (enterDelay s).debugEn = s.debugEn := rfl
@[simp] theorem enterDelay_irqEn (s : State) : (enterDelay s).irqEn = s.irqEn := rfl
@[simp] theorem enterDelay_hsLimit (s : State) : (enterDelay s).hsLimit = s.hsLimit := rfl
@[simp] theorem enterDelay_hsAttempts (s : State) : (enterDelay s).hsAttempts = s.hsAttempts := rfl
@[simp] theorem enterDelay_frRes (s : State) : (enterDelay s).frRes = s.frRes := rfl
@[simp] theorem enterDelay_frEscCnt (s : State) : (enterDelay s).frEscCnt = s.frEscCnt := rfl
@[simp] theorem enterDelay_frLen (s : State) : (enterDelay s).frLen = s.frLen := rfl
@[simp] theorem enterDelay_frHaveLen (s : State) : (enterDelay s).frHaveLen = s.frHaveLen := rfl
@[simp] theorem enterDelay_frEscFlag (s : State) : (enterDelay s).frEscFlag = s.frEscFlag := rfl
@[simp] theorem enterDelay_frCnt (s : State) : (enterDelay s).frCnt = s.frCnt := rfl
@[simp] theorem enterDelay_frBufsize (s : State) : (enterDelay s).frBufsize = s.frBufsize := rfl
@[simp] theorem enterDelay_waOff (s : State) : (enterDelay s).waOff = s.waOff := rfl
@[simp] theorem enterDelay_waLen (s : State) : (enterDelay s).waLen = s.waLen := rfl
@[simp] theorem enterDelay_rxbuf (s : State) : (enterDelay s).rxbuf = s.rxbuf := rfl
@[simp] theorem enterDelay_txbuf (s : State) : (enterDelay s).txbuf = s.txbuf := rfl
@[simp] theorem enterDelay_events (s : State) : (enterDelay s).events = s.events ++ [.delayStart] := rfl
@[simp] theorem enterDelay_cfg (s : State) : (enterDelay s).cfg = s.cfg := rfl
@[simp] theorem enterDelay_rxDraw (s : State) : (enterDelay s).rxDraw = s.rxDraw := rfl
@[simp] theorem enterDelay_txDraw (s : State) : (enterDelay s).txDraw = s.txDraw := rfl
@[simp] theorem enterDelay_answer (s : State) : (enterDelay s).answer = s.answer := rfl
@[simp] theorem enterDelay_pending (s : State) : (enterDelay s).pending = s.pending := rfl

/-! ### frOpen -/

@[simp] theorem frOpen_seq (n : Half) (m : Seq) (s : State) : (frOpen n m s).seq = m := rfl
@[simp] theorem frOpen_done (n : Half) (m : Seq) (s : State) : (frOpen n m s).done = s.done := rfl
@[simp] theorem frOpen_fault (n : Half) (m : Seq) (s : State) : (frOpen n m s).fault = s.fault := rfl
@[simp] theorem frOpen_cancelPending (n : Half) (m : Seq) (s : State) : (frOpen n m s).cancelPending = s.cancelPending := rfl
@[simp] theorem frOpen_lastOp (n : Half) (m : Seq) (s : State) : (frOpen n m s).lastOp = s.lastOp := rfl
@[simp] theorem frOpen_cause (n : Half) (m : Seq) (s : State) : (frOpen n m s).cause = s.cause := rfl
@[simp] theorem frOpen_faultCause (n : Half) (m : Seq) (s : State) : (frOpen n m s).faultCause = s.faultCause := rfl
@[simp] theorem frOpen_result (n : Half) (m : Seq) (s : State) : (frOpen n m s).result = s.result := rfl
@[simp] theorem frOpen_debugEn (n : Half) (m : Seq) (s : State) : (frOpen n m s).debugEn = s.debugEn := rfl
@[simp] theorem frOpen_irqEn (n : Half) (m : Seq) (s : State) : (frOpen n m s).irqEn = s.irqEn := rfl
@[simp] theorem frOpen_hsLimit (n : Half) (m : Seq) (s : State) : (frOpen n m s).hsLimit = s.hsLimit := rfl
@[simp] theorem frOpen_hsAttempts (n : Half) (m : Seq) (s : State) : (frOpen n m s).hsAttempts = s.hsAttempts := rfl
@[simp] theorem frOpen_frRes (n : Half) (m : Seq) (s : State) : (frOpen n m s).frRes = 0 := rfl
@[simp] theorem frOpen_frEscCnt (n : Half) (m : Seq) (s : State) : (frOpen n m s).frEscCnt = 0 := rfl
@[simp] theorem frOpen_frLen (n : Half) (m : Seq) (s : State) : (frOpen n m s).frLen = 0 := rfl
@[simp] theorem frOpen_frHaveLen (n : Half) (m : Seq) (s : State) : (frOpen n m s).frHaveLen = false := rfl
@[simp] theorem frOpen_frEscFlag (n : Half) (m : Seq) (s : State) : (frOpen n m s).frEscFlag = false := rfl
@[simp] theorem frOpen_frCnt (n : Half) (m : Seq) (s : State) : (frOpen n m s).frCnt = n := rfl
@[simp] theorem frOpen_frBufsize (n : Half) (m : Seq) (s : State) : (frOpen n m s).frBufsize = n := rfl
@[simp] theorem frOpen_waOff (n : Half) (m : Seq) (s : State) : (frOpen n m s).waOff = s.waOff := rfl
@[simp] theorem frOpen_waLen (n : Half) (m : Seq) (s : State) : (frOpen n m s).waLen = s.waLen := rfl
@[simp] theorem frOpen_rxbuf (n : Half) (m : Seq) (s : State) : (frOpen n m s).rxbuf = [] := rfl
@[simp] theorem frOpen_txbuf (n : Half) (m : Seq) (s : State) : (frOpen n m s).txbuf = s.txbuf := rfl
@[simp] theorem frOpen_events (n : Half) (m : Seq) (s : State) : (frOpen n m s).events = s.events := rfl
@[simp] theorem frOpen_cfg (n : Half) (m : Seq) (s : State) : (frOpen n m s).cfg = s.cfg := rfl
@[simp] theorem frOpen_rxDraw (n : Half) (m : Seq) (s : State) : (frOpen n m s).rxDraw = s.rxDraw + 1 := rfl
@[simp] theorem frOpen_txDraw (n : Half) (m : Seq) (s : State) : (frOpen n m s).txDraw = s.txDraw := rfl
@[simp] theorem frOpen_answer (n : Half) (m : Seq) (s : State) : (frOpen n m s).answer = s.answer := rfl
@[simp] theorem frOpen_pending (n : Half) (m : Seq) (s : State) : (frOpen n m s).pending = s.pending := rfl

/-! ### waOpen -/

@[simp] theorem waOpen_seq (n : Half) (m : Seq) (s : State) : (waOpen n m s).seq = m := rfl
@[simp] theorem waOpen_done (n : Half) (m : Seq) (s : State) : (waOpen n m s).done = s.done := rfl
@[simp] theorem waOpen_fault (n : Half) (m : Seq) (s : State) : (waOpen n m s).fault = s.fault := rfl
@[simp] theorem waOpen_cancelPending (n : Half) (m : Seq) (s : State) : (waOpen n m s).cancelPending = s.cancelPending := rfl
@[simp] theorem waOpen_lastOp (n : Half) (m : Seq) (s : State) : (waOpen n m s).lastOp = s.lastOp := rfl
@[simp] theorem waOpen_cause (n : Half) (m : Seq) (s : State) : (waOpen n m s).cause = s.cause := rfl
@[simp] theorem waOpen_faultCause (n : Half) (m : Seq) (s : State) : (waOpen n m s).faultCause = s.faultCause := rfl
@[simp] theorem waOpen_result (n : Half) (m : Seq) (s : State) : (waOpen n m s).result = s.result := rfl
@[simp] theorem waOpen_debugEn (n : Half) (m : Seq) (s : State) : (waOpen n m s).debugEn = s.debugEn := rfl
@[simp] theorem waOpen_irqEn (n : Half) (m : Seq) (s : State) : (waOpen n m s).irqEn = s.irqEn := rfl
@[simp] theorem waOpen_hsLimit (n : Half) (m : Seq) (s : State) : (waOpen n m s).hsLimit = s.hsLimit := rfl
@[simp] theorem waOpen_hsAttempts (n : Half) (m : Seq) (s : State) : (waOpen n m s).hsAttempts = s.hsAttempts := rfl
@[simp] theorem waOpen_frRes (n : Half) (m : Seq) (s : State) : (waOpen n m s).frRes = s.frRes := rfl
@[simp] theorem waOpen_frEscCnt (n : Half) (m : Seq) (s : State) : (waOpen n m s).frEscCnt = s.frEscCnt := rfl
@[simp] theorem waOpen_frLen (n : Half) (m : Seq) (s : State) : (waOpen n m s).frLen = s.frLen := rfl
@[simp] theorem waOpen_frHaveLen (n : Half) (m : Seq) (s : State) : (waOpen n m s).frHaveLen = s.frHaveLen := rfl
@[simp] theorem waOpen_frEscFlag (n : Half) (m : Seq) (s : State) : (waOpen n m s).frEscFlag = s.frEscFlag := rfl
@[simp] theorem waOpen_frCnt (n : Half) (m : Seq) (s : State) : (waOpen n m s).frCnt = s.frCnt := rfl
@[simp] theorem waOpen_frBufsize (n : Half) (m : Seq) (s : State) : (waOpen n m s).frBufsize = s.frBufsize := rfl
@[simp] theorem waOpen_waOff (n : Half) (m : Seq) (s : State) : (waOpen n m s).waOff = 0 := rfl
@[simp] theorem waOpen_waLen (n : Half) (m : Seq) (s : State) : (waOpen n m s).waLen = n := rfl
@[simp] theorem waOpen_rxbuf (n : Half) (m : Seq) (s : State) : (waOpen n m s).rxbuf = s.rxbuf := rfl
@[simp] theorem waOpen_txbuf (n : Half) (m : Seq) (s : State) : (waOpen n m s).txbuf = s.txbuf := rfl
@[simp] theorem waOpen_events (n : Half) (m : Seq) (s : State) : (waOpen n m s).events = s.events := rfl
@[simp] theorem waOpen_cfg (n : Half) (m : Seq) (s : State) : (waOpen n m s).cfg = s.cfg := rfl
@[simp] theorem waOpen_rxDraw (n : Half) (m : Seq) (s : State) : (waOpen n m s).rxDraw = s.rxDraw := rfl
@[simp] theorem waOpen_txDraw (n : Half) (m : Seq) (s : State) : (waOpen n m s).txDraw = s.txDraw := rfl
@[simp] theorem waOpen_answer (n : Half) (m : Seq) (s : State) : (waOpen n m s).answer = s.answer := rfl
@[simp] theorem waOpen_pending (n : Half) (m : Seq) (s : State) : (waOpen n m s).pending = s.pending := rfl

/-! ### countIteration -/

@[simp] theorem countIteration_seq (s : State) : (countIteration s).seq = s.seq := rfl
@[simp] theorem countIteration_done (s : State) : (countIteration s).done = s.done := rfl
@[simp] theorem countIteration_fault (s : State) : (countIteration s).fault = s.fault := rfl
@[simp] theorem countIteration_cancelPending (s : State) : (countIteration s).cancelPending = s.cancelPending := rfl
@[simp] theorem countIteration_lastOp (s : State) : (countIteration s).lastOp = s.lastOp := rfl
@[simp] theorem countIteration_cause (s : State) : (countIteration s).cause = s.cause := rfl
@[simp] theorem countIteration_faultCause (s : State) : (countIteration s).faultCause = s.faultCause := rfl
@[simp] theorem countIteration_result (s : State) : (countIteration s).result = s.result := rfl
@[simp] theorem countIteration_debugEn (s : State) : (countIteration s).debugEn = s.debugEn := rfl
@[simp] theorem countIteration_irqEn (s : State) : (countIteration s).irqEn = s.irqEn := rfl
@[simp] theorem countIteration_hsLimit (s : State) : (countIteration s).hsLimit = s.hsLimit := rfl
@[simp] theorem countIteration_hsAttempts (s : State) : (countIteration s).hsAttempts = s.hsAttempts + 1 := rfl
@[simp] theorem countIteration_frRes (s : State) : (countIteration s).frRes = s.frRes := rfl
@[simp] theorem countIteration_frEscCnt (s : State) : (countIteration s).frEscCnt = s.frEscCnt := rfl
@[simp] theorem countIteration_frLen (s : State) : (countIteration s).frLen = s.frLen := rfl
@[simp] theorem countIteration_frHaveLen (s : State) : (countIteration s).frHaveLen = s.frHaveLen := rfl
@[simp] theorem countIteration_frEscFlag (s : State) : (countIteration s).frEscFlag = s.frEscFlag := rfl
@[simp] theorem countIteration_frCnt (s : State) : (countIteration s).frCnt = s.frCnt := rfl
@[simp] theorem countIteration_frBufsize (s : State) : (countIteration s).frBufsize = s.frBufsize := rfl
@[simp] theorem countIteration_waOff (s : State) : (countIteration s).waOff = s.waOff := rfl
@[simp] theorem countIteration_waLen (s : State) : (countIteration s).waLen = s.waLen := rfl
@[simp] theorem countIteration_rxbuf (s : State) : (countIteration s).rxbuf = s.rxbuf := rfl
@[simp] theorem countIteration_txbuf (s : State) : (countIteration s).txbuf = s.txbuf := rfl
@[simp] theorem countIteration_events (s : State) : (countIteration s).events = s.events := rfl
@[simp] theorem countIteration_cfg (s : State) : (countIteration s).cfg = s.cfg := rfl
@[simp] theorem countIteration_rxDraw (s : State) : (countIteration s).rxDraw = s.rxDraw := rfl
@[simp] theorem countIteration_txDraw (s : State) : (countIteration s).txDraw = s.txDraw := rfl
@[simp] theorem countIteration_answer (s : State) : (countIteration s).answer = s.answer := rfl
@[simp] theorem countIteration_pending (s : State) : (countIteration s).pending = s.pending := rfl

/-! ### frCount -/

@[simp] theorem frCount_seq (s : State) : (frCount s).seq = s.seq := rfl
@[simp] theorem frCount_done (s : State) : (frCount s).done = s.done := rfl
@[simp] theorem frCount_fault (s : State) : (frCount s).fault = s.fault := rfl
@[simp] theorem frCount_cancelPending (s : State) : (frCount s).cancelPending = s.cancelPending := rfl
@[simp] theorem frCount_lastOp (s : State) : (frCount s).lastOp = s.lastOp := rfl
@[simp] theorem frCount_cause (s : State) : (frCount s).cause = s.cause := rfl
@[simp] theorem frCount_faultCause (s : State) : (frCount s).faultCause = s.faultCause := rfl
@[simp] theorem frCount_result (s : State) : (frCount s).result = s.result := rfl
@[simp] theorem frCount_debugEn (s : State) : (frCount s).debugEn = s.debugEn := rfl
@[simp] theorem frCount_irqEn (s : State) : (frCount s).irqEn = s.irqEn := rfl
@[simp] theorem frCount_hsLimit (s : State) : (frCount s).hsLimit = s.hsLimit := rfl
@[simp] theorem frCount_hsAttempts (s : State) : (frCount s).hsAttempts = s.hsAttempts := rfl
@[simp] theorem frCount_frRes (s : State) : (frCount s).frRes = s.frRes + 1 := rfl
@[simp] theorem frCount_frEscCnt (s : State) : (frCount s).frEscCnt = s.frEscCnt := rfl
@[simp] theorem frCount_frLen (s : State) : (frCount s).frLen = s.frLen := rfl
@[simp] theorem frCount_frHaveLen (s : State) : (frCount s).frHaveLen = s.frHaveLen := rfl
@[simp] theorem frCount_frEscFlag (s : State) : (frCount s).frEscFlag = s.frEscFlag := rfl
@[simp] theorem frCount_frCnt (s : State) : (frCount s).frCnt = s.frCnt := rfl
@[simp] theorem frCount_frBufsize (s : State) : (frCount s).frBufsize = s.frBufsize := rfl
@[simp] theorem frCount_waOff (s : State) : (frCount s).waOff = s.waOff := rfl
@[simp] theorem frCount_waLen (s : State) : (frCount s).waLen = s.waLen := rfl
@[simp] theorem frCount_rxbuf (s : State) : (frCount s).rxbuf = s.rxbuf := rfl
@[simp] theorem frCount_txbuf (s : State) : (frCount s).txbuf = s.txbuf := rfl
@[simp] theorem frCount_events (s : State) : (frCount s).events = s.events := rfl
@[simp] theorem frCount_cfg (s : State) : (frCount s).cfg = s.cfg := rfl
@[simp] theorem frCount_rxDraw (s : State) : (frCount s).rxDraw = s.rxDraw := rfl
@[simp] theorem frCount_txDraw (s : State) : (frCount s).txDraw = s.txDraw := rfl
@[simp] theorem frCount_answer (s : State) : (frCount s).answer = s.answer := rfl
@[simp] theorem frCount_pending (s : State) : (frCount s).pending = s.pending := rfl

/-! ### frClearFlag -/

@[simp] theorem frClearFlag_seq (s : State) : (frClearFlag s).seq = s.seq := rfl
@[simp] theorem frClearFlag_done (s : State) : (frClearFlag s).done = s.done := rfl
@[simp] theorem frClearFlag_fault (s : State) : (frClearFlag s).fault = s.fault := rfl
@[simp] theorem frClearFlag_cancelPending (s : State) : (frClearFlag s).cancelPending = s.cancelPending := rfl
@[simp] theorem frClearFlag_lastOp (s : State) : (frClearFlag s).lastOp = s.lastOp := rfl
@[simp] theorem frClearFlag_cause (s : State) : (frClearFlag s).cause = s.cause := rfl
@[simp] theorem frClearFlag_faultCause (s : State) : (frClearFlag s).faultCause = s.faultCause := rfl
@[simp] theorem frClearFlag_result (s : State) : (frClearFlag s).result = s.result := rfl
@[simp] theorem frClearFlag_debugEn (s : State) : (frClearFlag s).debugEn = s.debugEn := rfl
@[simp] theorem frClearFlag_irqEn (s : State) : (frClearFlag s).irqEn = s.irqEn := rfl
@[simp] theorem frClearFlag_hsLimit (s : State) : (frClearFlag s).hsLimit = s.hsLimit := rfl
@[simp] theorem frClearFlag_hsAttempts (s : State) : (frClearFlag s).hsAttempts = s.hsAttempts := rfl
@[simp] theorem frClearFlag_frRes (s : State) : (frClearFlag s).frRes = s.frRes := rfl
@[simp] theorem frClearFlag_frEscCnt (s : State) : (frClearFlag s).frEscCnt = s.frEscCnt := rfl
@[simp] theorem frClearFlag_frLen (s : State) : (frClearFlag s).frLen = s.frLen := rfl
@[simp] theorem frClearFlag_frHaveLen (s : State) : (frClearFlag s).frHaveLen = s.frHaveLen := rfl
@[simp] theorem frClearFlag_frEscFlag (s : State) : (frClearFlag s).frEscFlag = false := rfl
@[simp] theorem frClearFlag_frCnt (s : State) : (frClearFlag s).frCnt = s.frCnt := rfl
@[simp] theorem frClearFlag_frBufsize (s : State) : (frClearFlag s).frBufsize = s.frBufsize := rfl
@[simp] theorem frClearFlag_waOff (s : State) : (frClearFlag s).waOff = s.waOff := rfl
@[simp] theorem frClearFlag_waLen (s : State) : (frClearFlag s).waLen = s.waLen := rfl
@[simp] theorem frClearFlag_rxbuf (s : State) : (frClearFlag s).rxbuf = s.rxbuf := rfl
@[simp] theorem frClearFlag_txbuf (s : State) : (frClearFlag s).txbuf = s.txbuf := rfl
@[simp] theorem frClearFlag_events (s : State) : (frClearFlag s).events = s.events := rfl
@[simp] theorem frClearFlag_cfg (s : State) : (frClearFlag s).cfg = s.cfg := rfl
@[simp] theorem frClearFlag_rxDraw (s : State) : (frClearFlag s).rxDraw = s.rxDraw := rfl
@[simp] theorem frClearFlag_txDraw (s : State) : (frClearFlag s).txDraw = s.txDraw := rfl
@[simp] theorem frClearFlag_answer (s : State) : (frClearFlag s).answer = s.answer := rfl
@[simp] theorem frClearFlag_pending (s : State) : (frClearFlag s).pending = s.pending := rfl

/-! ### frTakeHigh -/

@[simp] theorem frTakeHigh_seq (v : Byte) (s : State) : (frTakeHigh v s).seq = s.seq := rfl
@[simp] theorem frTakeHigh_done (v : Byte) (s : State) : (frTakeHigh v s).done = s.done := rfl
@[simp] theorem frTakeHigh_fault (v : Byte) (s : State) : (frTakeHigh v s).fault = s.fault := rfl
@[simp] theorem frTakeHigh_cancelPending (v : Byte) (s : State) : (frTakeHigh v s).cancelPending = s.cancelPending := rfl
@[simp] theorem frTakeHigh_lastOp (v : Byte) (s : State) : (frTakeHigh v s).lastOp = s.lastOp := rfl
@[simp] theorem frTakeHigh_cause (v : Byte) (s : State) : (frTakeHigh v s).cause = s.cause := rfl
@[simp] theorem frTakeHigh_faultCause (v : Byte) (s : State) : (frTakeHigh v s).faultCause = s.faultCause := rfl
@[simp] theorem frTakeHigh_result (v : Byte) (s : State) : (frTakeHigh v s).result = s.result := rfl
@[simp] theorem frTakeHigh_debugEn (v : Byte) (s : State) : (frTakeHigh v s).debugEn = s.debugEn := rfl
@[simp] theorem frTakeHigh_irqEn (v : Byte) (s : State) : (frTakeHigh v s).irqEn = s.irqEn := rfl
@[simp] theorem frTakeHigh_hsLimit (v : Byte) (s : State) : (frTakeHigh v s).hsLimit = s.hsLimit := rfl
@[simp] theorem frTakeHigh_hsAttempts (v : Byte) (s : State) : (frTakeHigh v s).hsAttempts = s.hsAttempts := rfl
@[simp] theorem frTakeHigh_frRes (v : Byte) (s : State) : (frTakeHigh v s).frRes = s.frRes := rfl
@[simp] theorem frTakeHigh_frEscCnt (v : Byte) (s : State) : (frTakeHigh v s).frEscCnt = s.frEscCnt := rfl
@[simp] theorem frTakeHigh_frLen (v : Byte) (s : State) : (frTakeHigh v s).frLen = v ++ 0#8 := rfl
@[simp] theorem frTakeHigh_frHaveLen (v : Byte) (s : State) : (frTakeHigh v s).frHaveLen = s.frHaveLen := rfl
@[simp] theorem frTakeHigh_frEscFlag (v : Byte) (s : State) : (frTakeHigh v s).frEscFlag = s.frEscFlag := rfl
@[simp] theorem frTakeHigh_frCnt (v : Byte) (s : State) : (frTakeHigh v s).frCnt = s.frCnt := rfl
@[simp] theorem frTakeHigh_frBufsize (v : Byte) (s : State) : (frTakeHigh v s).frBufsize = s.frBufsize := rfl
@[simp] theorem frTakeHigh_waOff (v : Byte) (s : State) : (frTakeHigh v s).waOff = s.waOff := rfl
@[simp] theorem frTakeHigh_waLen (v : Byte) (s : State) : (frTakeHigh v s).waLen = s.waLen := rfl
@[simp] theorem frTakeHigh_rxbuf (v : Byte) (s : State) : (frTakeHigh v s).rxbuf = s.rxbuf := rfl
@[simp] theorem frTakeHigh_txbuf (v : Byte) (s : State) : (frTakeHigh v s).txbuf = s.txbuf := rfl
@[simp] theorem frTakeHigh_events (v : Byte) (s : State) : (frTakeHigh v s).events = s.events := rfl
@[simp] theorem frTakeHigh_cfg (v : Byte) (s : State) : (frTakeHigh v s).cfg = s.cfg := rfl
@[simp] theorem frTakeHigh_rxDraw (v : Byte) (s : State) : (frTakeHigh v s).rxDraw = s.rxDraw := rfl
@[simp] theorem frTakeHigh_txDraw (v : Byte) (s : State) : (frTakeHigh v s).txDraw = s.txDraw := rfl
@[simp] theorem frTakeHigh_answer (v : Byte) (s : State) : (frTakeHigh v s).answer = s.answer := rfl
@[simp] theorem frTakeHigh_pending (v : Byte) (s : State) : (frTakeHigh v s).pending = s.pending := rfl

/-! ### frTakeLow -/

@[simp] theorem frTakeLow_seq (v : Byte) (s : State) : (frTakeLow v s).seq = s.seq := rfl
@[simp] theorem frTakeLow_done (v : Byte) (s : State) : (frTakeLow v s).done = s.done := rfl
@[simp] theorem frTakeLow_fault (v : Byte) (s : State) : (frTakeLow v s).fault = s.fault := rfl
@[simp] theorem frTakeLow_cancelPending (v : Byte) (s : State) : (frTakeLow v s).cancelPending = s.cancelPending := rfl
@[simp] theorem frTakeLow_lastOp (v : Byte) (s : State) : (frTakeLow v s).lastOp = s.lastOp := rfl
@[simp] theorem frTakeLow_cause (v : Byte) (s : State) : (frTakeLow v s).cause = s.cause := rfl
@[simp] theorem frTakeLow_faultCause (v : Byte) (s : State) : (frTakeLow v s).faultCause = s.faultCause := rfl
@[simp] theorem frTakeLow_result (v : Byte) (s : State) : (frTakeLow v s).result = s.result := rfl
@[simp] theorem frTakeLow_debugEn (v : Byte) (s : State) : (frTakeLow v s).debugEn = s.debugEn := rfl
@[simp] theorem frTakeLow_irqEn (v : Byte) (s : State) : (frTakeLow v s).irqEn = s.irqEn := rfl
@[simp] theorem frTakeLow_hsLimit (v : Byte) (s : State) : (frTakeLow v s).hsLimit = s.hsLimit := rfl
@[simp] theorem frTakeLow_hsAttempts (v : Byte) (s : State) : (frTakeLow v s).hsAttempts = s.hsAttempts := rfl
@[simp] theorem frTakeLow_frRes (v : Byte) (s : State) : (frTakeLow v s).frRes = s.frRes := rfl
@[simp] theorem frTakeLow_frEscCnt (v : Byte) (s : State) : (frTakeLow v s).frEscCnt = s.frEscCnt := rfl
@[simp] theorem frTakeLow_frLen (v : Byte) (s : State) : (frTakeLow v s).frLen = s.frLen ||| (0#8 ++ v) := rfl
@[simp] theorem frTakeLow_frHaveLen (v : Byte) (s : State) : (frTakeLow v s).frHaveLen = true := rfl
@[simp] theorem frTakeLow_frEscFlag (v : Byte) (s : State) : (frTakeLow v s).frEscFlag = s.frEscFlag := rfl
@[simp] theorem frTakeLow_frCnt (v : Byte) (s : State) : (frTakeLow v s).frCnt = s.frCnt := rfl
@[simp] theorem frTakeLow_frBufsize (v : Byte) (s : State) : (frTakeLow v s).frBufsize = s.frBufsize := rfl
@[simp] theorem frTakeLow_waOff (v : Byte) (s : State) : (frTakeLow v s).waOff = s.waOff := rfl
@[simp] theorem frTakeLow_waLen (v : Byte) (s : State) : (frTakeLow v s).waLen = s.waLen := rfl
@[simp] theorem frTakeLow_rxbuf (v : Byte) (s : State) : (frTakeLow v s).rxbuf = s.rxbuf := rfl
@[simp] theorem frTakeLow_txbuf (v : Byte) (s : State) : (frTakeLow v s).txbuf = s.txbuf := rfl
@[simp] theorem frTakeLow_events (v : Byte) (s : State) : (frTakeLow v s).events = s.events := rfl
@[simp] theorem frTakeLow_cfg (v : Byte) (s : State) : (frTakeLow v s).cfg = s.cfg := rfl
@[simp] theorem frTakeLow_rxDraw (v : Byte) (s : State) : (frTakeLow v s).rxDraw = s.rxDraw := rfl
@[simp] theorem frTakeLow_txDraw (v : Byte) (s : State) : (frTakeLow v s).txDraw = s.txDraw := rfl
@[simp] theorem frTakeLow_answer (v : Byte) (s : State) : (frTakeLow v s).answer = s.answer := rfl
@[simp] theorem frTakeLow_pending (v : Byte) (s : State) : (frTakeLow v s).pending = s.pending := rfl

/-! ### hsClear -/

@[simp] theorem hsClear_seq (s : State) : (hsClear s).seq = s.seq := rfl
@[simp] theorem hsClear_done (s : State) : (hsClear s).done = s.done := rfl
@[simp] theorem hsClear_fault (s : State) : (hsClear s).fault = s.fault := rfl
@[simp] theorem hsClear_cancelPending (s : State) : (hsClear s).cancelPending = false := rfl
@[simp] theorem hsClear_lastOp (s : State) : (hsClear s).lastOp = s.lastOp := rfl
@[simp] theorem hsClear_cause (s : State) : (hsClear s).cause = s.cause := rfl
@[simp] theorem hsClear_faultCause (s : State) : (hsClear s).faultCause = s.faultCause := rfl
@[simp] theorem hsClear_result (s : State) : (hsClear s).result = s.result := rfl
@[simp] theorem hsClear_debugEn (s : State) : (hsClear s).debugEn = s.debugEn := rfl
@[simp] theorem hsClear_irqEn (s : State) : (hsClear s).irqEn = s.irqEn := rfl
@[simp] theorem hsClear_hsLimit (s : State) : (hsClear s).hsLimit = s.hsLimit := rfl
@[simp] theorem hsClear_hsAttempts (s : State) : (hsClear s).hsAttempts = 0 := rfl
@[simp] theorem hsClear_frRes (s : State) : (hsClear s).frRes = s.frRes := rfl
@[simp] theorem hsClear_frEscCnt (s : State) : (hsClear s).frEscCnt = s.frEscCnt := rfl
@[simp] theorem hsClear_frLen (s : State) : (hsClear s).frLen = s.frLen := rfl
@[simp] theorem hsClear_frHaveLen (s : State) : (hsClear s).frHaveLen = s.frHaveLen := rfl
@[simp] theorem hsClear_frEscFlag (s : State) : (hsClear s).frEscFlag = s.frEscFlag := rfl
@[simp] theorem hsClear_frCnt (s : State) : (hsClear s).frCnt = s.frCnt := rfl
@[simp] theorem hsClear_frBufsize (s : State) : (hsClear s).frBufsize = s.frBufsize := rfl
@[simp] theorem hsClear_waOff (s : State) : (hsClear s).waOff = s.waOff := rfl
@[simp] theorem hsClear_waLen (s : State) : (hsClear s).waLen = s.waLen := rfl
@[simp] theorem hsClear_rxbuf (s : State) : (hsClear s).rxbuf = s.rxbuf := rfl
@[simp] theorem hsClear_txbuf (s : State) : (hsClear s).txbuf = s.txbuf := rfl
@[simp] theorem hsClear_events (s : State) : (hsClear s).events = s.events := rfl
@[simp] theorem hsClear_cfg (s : State) : (hsClear s).cfg = s.cfg := rfl
@[simp] theorem hsClear_rxDraw (s : State) : (hsClear s).rxDraw = s.rxDraw := rfl
@[simp] theorem hsClear_txDraw (s : State) : (hsClear s).txDraw = s.txDraw := rfl
@[simp] theorem hsClear_answer (s : State) : (hsClear s).answer = s.answer := rfl
@[simp] theorem hsClear_pending (s : State) : (hsClear s).pending = s.pending := rfl

/-! ### latchCancel -/

@[simp] theorem latchCancel_seq (s : State) : (latchCancel s).seq = s.seq := rfl
@[simp] theorem latchCancel_done (s : State) : (latchCancel s).done = s.done := rfl
@[simp] theorem latchCancel_fault (s : State) : (latchCancel s).fault = s.fault := rfl
@[simp] theorem latchCancel_cancelPending (s : State) : (latchCancel s).cancelPending = true := rfl
@[simp] theorem latchCancel_lastOp (s : State) : (latchCancel s).lastOp = s.lastOp := rfl
@[simp] theorem latchCancel_cause (s : State) : (latchCancel s).cause = s.cause := rfl
@[simp] theorem latchCancel_faultCause (s : State) : (latchCancel s).faultCause = s.faultCause := rfl
@[simp] theorem latchCancel_result (s : State) : (latchCancel s).result = s.result := rfl
@[simp] theorem latchCancel_debugEn (s : State) : (latchCancel s).debugEn = s.debugEn := rfl
@[simp] theorem latchCancel_irqEn (s : State) : (latchCancel s).irqEn = s.irqEn := rfl
@[simp] theorem latchCancel_hsLimit (s : State) : (latchCancel s).hsLimit = s.hsLimit := rfl
@[simp] theorem latchCancel_hsAttempts (s : State) : (latchCancel s).hsAttempts = s.hsAttempts := rfl
@[simp] theorem latchCancel_frRes (s : State) : (latchCancel s).frRes = s.frRes := rfl
@[simp] theorem latchCancel_frEscCnt (s : State) : (latchCancel s).frEscCnt = s.frEscCnt := rfl
@[simp] theorem latchCancel_frLen (s : State) : (latchCancel s).frLen = s.frLen := rfl
@[simp] theorem latchCancel_frHaveLen (s : State) : (latchCancel s).frHaveLen = s.frHaveLen := rfl
@[simp] theorem latchCancel_frEscFlag (s : State) : (latchCancel s).frEscFlag = s.frEscFlag := rfl
@[simp] theorem latchCancel_frCnt (s : State) : (latchCancel s).frCnt = s.frCnt := rfl
@[simp] theorem latchCancel_frBufsize (s : State) : (latchCancel s).frBufsize = s.frBufsize := rfl
@[simp] theorem latchCancel_waOff (s : State) : (latchCancel s).waOff = s.waOff := rfl
@[simp] theorem latchCancel_waLen (s : State) : (latchCancel s).waLen = s.waLen := rfl
@[simp] theorem latchCancel_rxbuf (s : State) : (latchCancel s).rxbuf = s.rxbuf := rfl
@[simp] theorem latchCancel_txbuf (s : State) : (latchCancel s).txbuf = s.txbuf := rfl
@[simp] theorem latchCancel_events (s : State) : (latchCancel s).events = s.events := rfl
@[simp] theorem latchCancel_cfg (s : State) : (latchCancel s).cfg = s.cfg := rfl
@[simp] theorem latchCancel_rxDraw (s : State) : (latchCancel s).rxDraw = s.rxDraw := rfl
@[simp] theorem latchCancel_txDraw (s : State) : (latchCancel s).txDraw = s.txDraw := rfl
@[simp] theorem latchCancel_answer (s : State) : (latchCancel s).answer = s.answer := rfl
@[simp] theorem latchCancel_pending (s : State) : (latchCancel s).pending = s.pending := rfl

/-! ### waAdvance -/

@[simp] theorem waAdvance_seq (k : Nat) (s : State) : (waAdvance k s).seq = s.seq := rfl
@[simp] theorem waAdvance_done (k : Nat) (s : State) : (waAdvance k s).done = s.done := rfl
@[simp] theorem waAdvance_fault (k : Nat) (s : State) : (waAdvance k s).fault = s.fault := rfl
@[simp] theorem waAdvance_cancelPending (k : Nat) (s : State) : (waAdvance k s).cancelPending = s.cancelPending := rfl
@[simp] theorem waAdvance_lastOp (k : Nat) (s : State) : (waAdvance k s).lastOp = s.lastOp := rfl
@[simp] theorem waAdvance_cause (k : Nat) (s : State) : (waAdvance k s).cause = s.cause := rfl
@[simp] theorem waAdvance_faultCause (k : Nat) (s : State) : (waAdvance k s).faultCause = s.faultCause := rfl
@[simp] theorem waAdvance_result (k : Nat) (s : State) : (waAdvance k s).result = s.result := rfl
@[simp] theorem waAdvance_debugEn (k : Nat) (s : State) : (waAdvance k s).debugEn = s.debugEn := rfl
@[simp] theorem waAdvance_irqEn (k : Nat) (s : State) : (waAdvance k s).irqEn = s.irqEn := rfl
@[simp] theorem waAdvance_hsLimit (k : Nat) (s : State) : (waAdvance k s).hsLimit = s.hsLimit := rfl
@[simp] theorem waAdvance_hsAttempts (k : Nat) (s : State) : (waAdvance k s).hsAttempts = s.hsAttempts := rfl
@[simp] theorem waAdvance_frRes (k : Nat) (s : State) : (waAdvance k s).frRes = s.frRes := rfl
@[simp] theorem waAdvance_frEscCnt (k : Nat) (s : State) : (waAdvance k s).frEscCnt = s.frEscCnt := rfl
@[simp] theorem waAdvance_frLen (k : Nat) (s : State) : (waAdvance k s).frLen = s.frLen := rfl
@[simp] theorem waAdvance_frHaveLen (k : Nat) (s : State) : (waAdvance k s).frHaveLen = s.frHaveLen := rfl
@[simp] theorem waAdvance_frEscFlag (k : Nat) (s : State) : (waAdvance k s).frEscFlag = s.frEscFlag := rfl
@[simp] theorem waAdvance_frCnt (k : Nat) (s : State) : (waAdvance k s).frCnt = s.frCnt := rfl
@[simp] theorem waAdvance_frBufsize (k : Nat) (s : State) : (waAdvance k s).frBufsize = s.frBufsize := rfl
@[simp] theorem waAdvance_waOff (k : Nat) (s : State) : (waAdvance k s).waOff = s.waOff + BitVec.ofNat 16 k := rfl
@[simp] theorem waAdvance_waLen (k : Nat) (s : State) : (waAdvance k s).waLen = s.waLen := rfl
@[simp] theorem waAdvance_rxbuf (k : Nat) (s : State) : (waAdvance k s).rxbuf = s.rxbuf := rfl
@[simp] theorem waAdvance_txbuf (k : Nat) (s : State) : (waAdvance k s).txbuf = s.txbuf := rfl
@[simp] theorem waAdvance_events (k : Nat) (s : State) : (waAdvance k s).events = s.events := rfl
@[simp] theorem waAdvance_cfg (k : Nat) (s : State) : (waAdvance k s).cfg = s.cfg := rfl
@[simp] theorem waAdvance_rxDraw (k : Nat) (s : State) : (waAdvance k s).rxDraw = s.rxDraw := rfl
@[simp] theorem waAdvance_txDraw (k : Nat) (s : State) : (waAdvance k s).txDraw = s.txDraw := rfl
@[simp] theorem waAdvance_answer (k : Nat) (s : State) : (waAdvance k s).answer = s.answer := rfl
@[simp] theorem waAdvance_pending (k : Nat) (s : State) : (waAdvance k s).pending = s.pending := rfl

/-! ### writeCtrl -/

@[simp] theorem writeCtrl_seq (d : Word) (s : State) : (writeCtrl d s).seq = s.seq := rfl
@[simp] theorem writeCtrl_done (d : Word) (s : State) : (writeCtrl d s).done = s.done := rfl
@[simp] theorem writeCtrl_fault (d : Word) (s : State) : (writeCtrl d s).fault = s.fault := rfl
@[simp] theorem writeCtrl_cancelPending (d : Word) (s : State) : (writeCtrl d s).cancelPending = s.cancelPending := rfl
@[simp] theorem writeCtrl_lastOp (d : Word) (s : State) : (writeCtrl d s).lastOp = s.lastOp := rfl
@[simp] theorem writeCtrl_cause (d : Word) (s : State) : (writeCtrl d s).cause = s.cause := rfl
@[simp] theorem writeCtrl_faultCause (d : Word) (s : State) : (writeCtrl d s).faultCause = s.faultCause := rfl
@[simp] theorem writeCtrl_result (d : Word) (s : State) : (writeCtrl d s).result = s.result := rfl
@[simp] theorem writeCtrl_debugEn (d : Word) (s : State) : (writeCtrl d s).debugEn = d.getLsbD 0 := rfl
@[simp] theorem writeCtrl_irqEn (d : Word) (s : State) : (writeCtrl d s).irqEn = d.getLsbD 1 := rfl
@[simp] theorem writeCtrl_hsLimit (d : Word) (s : State) : (writeCtrl d s).hsLimit = s.hsLimit := rfl
@[simp] theorem writeCtrl_hsAttempts (d : Word) (s : State) : (writeCtrl d s).hsAttempts = s.hsAttempts := rfl
@[simp] theorem writeCtrl_frRes (d : Word) (s : State) : (writeCtrl d s).frRes = s.frRes := rfl
@[simp] theorem writeCtrl_frEscCnt (d : Word) (s : State) : (writeCtrl d s).frEscCnt = s.frEscCnt := rfl
@[simp] theorem writeCtrl_frLen (d : Word) (s : State) : (writeCtrl d s).frLen = s.frLen := rfl
@[simp] theorem writeCtrl_frHaveLen (d : Word) (s : State) : (writeCtrl d s).frHaveLen = s.frHaveLen := rfl
@[simp] theorem writeCtrl_frEscFlag (d : Word) (s : State) : (writeCtrl d s).frEscFlag = s.frEscFlag := rfl
@[simp] theorem writeCtrl_frCnt (d : Word) (s : State) : (writeCtrl d s).frCnt = s.frCnt := rfl
@[simp] theorem writeCtrl_frBufsize (d : Word) (s : State) : (writeCtrl d s).frBufsize = s.frBufsize := rfl
@[simp] theorem writeCtrl_waOff (d : Word) (s : State) : (writeCtrl d s).waOff = s.waOff := rfl
@[simp] theorem writeCtrl_waLen (d : Word) (s : State) : (writeCtrl d s).waLen = s.waLen := rfl
@[simp] theorem writeCtrl_rxbuf (d : Word) (s : State) : (writeCtrl d s).rxbuf = s.rxbuf := rfl
@[simp] theorem writeCtrl_txbuf (d : Word) (s : State) : (writeCtrl d s).txbuf = s.txbuf := rfl
@[simp] theorem writeCtrl_events (d : Word) (s : State) : (writeCtrl d s).events = s.events := rfl
@[simp] theorem writeCtrl_cfg (d : Word) (s : State) : (writeCtrl d s).cfg = s.cfg := rfl
@[simp] theorem writeCtrl_rxDraw (d : Word) (s : State) : (writeCtrl d s).rxDraw = s.rxDraw := rfl
@[simp] theorem writeCtrl_txDraw (d : Word) (s : State) : (writeCtrl d s).txDraw = s.txDraw := rfl
@[simp] theorem writeCtrl_answer (d : Word) (s : State) : (writeCtrl d s).answer = s.answer := rfl
@[simp] theorem writeCtrl_pending (d : Word) (s : State) : (writeCtrl d s).pending = s.pending := rfl

/-! ### writeLimit -/

@[simp] theorem writeLimit_seq (d : Word) (s : State) : (writeLimit d s).seq = s.seq := rfl
@[simp] theorem writeLimit_done (d : Word) (s : State) : (writeLimit d s).done = s.done := rfl
@[simp] theorem writeLimit_fault (d : Word) (s : State) : (writeLimit d s).fault = s.fault := rfl
@[simp] theorem writeLimit_cancelPending (d : Word) (s : State) : (writeLimit d s).cancelPending = s.cancelPending := rfl
@[simp] theorem writeLimit_lastOp (d : Word) (s : State) : (writeLimit d s).lastOp = s.lastOp := rfl
@[simp] theorem writeLimit_cause (d : Word) (s : State) : (writeLimit d s).cause = s.cause := rfl
@[simp] theorem writeLimit_faultCause (d : Word) (s : State) : (writeLimit d s).faultCause = s.faultCause := rfl
@[simp] theorem writeLimit_result (d : Word) (s : State) : (writeLimit d s).result = s.result := rfl
@[simp] theorem writeLimit_debugEn (d : Word) (s : State) : (writeLimit d s).debugEn = s.debugEn := rfl
@[simp] theorem writeLimit_irqEn (d : Word) (s : State) : (writeLimit d s).irqEn = s.irqEn := rfl
@[simp] theorem writeLimit_hsLimit (d : Word) (s : State) : (writeLimit d s).hsLimit = d.extractLsb' 0 16 := rfl
@[simp] theorem writeLimit_hsAttempts (d : Word) (s : State) : (writeLimit d s).hsAttempts = s.hsAttempts := rfl
@[simp] theorem writeLimit_frRes (d : Word) (s : State) : (writeLimit d s).frRes = s.frRes := rfl
@[simp] theorem writeLimit_frEscCnt (d : Word) (s : State) : (writeLimit d s).frEscCnt = s.frEscCnt := rfl
@[simp] theorem writeLimit_frLen (d : Word) (s : State) : (writeLimit d s).frLen = s.frLen := rfl
@[simp] theorem writeLimit_frHaveLen (d : Word) (s : State) : (writeLimit d s).frHaveLen = s.frHaveLen := rfl
@[simp] theorem writeLimit_frEscFlag (d : Word) (s : State) : (writeLimit d s).frEscFlag = s.frEscFlag := rfl
@[simp] theorem writeLimit_frCnt (d : Word) (s : State) : (writeLimit d s).frCnt = s.frCnt := rfl
@[simp] theorem writeLimit_frBufsize (d : Word) (s : State) : (writeLimit d s).frBufsize = s.frBufsize := rfl
@[simp] theorem writeLimit_waOff (d : Word) (s : State) : (writeLimit d s).waOff = s.waOff := rfl
@[simp] theorem writeLimit_waLen (d : Word) (s : State) : (writeLimit d s).waLen = s.waLen := rfl
@[simp] theorem writeLimit_rxbuf (d : Word) (s : State) : (writeLimit d s).rxbuf = s.rxbuf := rfl
@[simp] theorem writeLimit_txbuf (d : Word) (s : State) : (writeLimit d s).txbuf = s.txbuf := rfl
@[simp] theorem writeLimit_events (d : Word) (s : State) : (writeLimit d s).events = s.events := rfl
@[simp] theorem writeLimit_cfg (d : Word) (s : State) : (writeLimit d s).cfg = s.cfg := rfl
@[simp] theorem writeLimit_rxDraw (d : Word) (s : State) : (writeLimit d s).rxDraw = s.rxDraw := rfl
@[simp] theorem writeLimit_txDraw (d : Word) (s : State) : (writeLimit d s).txDraw = s.txDraw := rfl
@[simp] theorem writeLimit_answer (d : Word) (s : State) : (writeLimit d s).answer = s.answer := rfl
@[simp] theorem writeLimit_pending (d : Word) (s : State) : (writeLimit d s).pending = s.pending := rfl

/-! ### writeError -/

@[simp] theorem writeError_seq (s : State) : (writeError s).seq = s.seq := rfl
@[simp] theorem writeError_done (s : State) : (writeError s).done = s.done := rfl
@[simp] theorem writeError_fault (s : State) : (writeError s).fault = true := rfl
@[simp] theorem writeError_cancelPending (s : State) : (writeError s).cancelPending = s.cancelPending := rfl
@[simp] theorem writeError_lastOp (s : State) : (writeError s).lastOp = s.lastOp := rfl
@[simp] theorem writeError_cause (s : State) : (writeError s).cause = s.cause := rfl
@[simp] theorem writeError_faultCause (s : State) : (writeError s).faultCause = if s.fault then s.faultCause else .busErr := rfl
@[simp] theorem writeError_result (s : State) : (writeError s).result = s.result := rfl
@[simp] theorem writeError_debugEn (s : State) : (writeError s).debugEn = s.debugEn := rfl
@[simp] theorem writeError_irqEn (s : State) : (writeError s).irqEn = s.irqEn := rfl
@[simp] theorem writeError_hsLimit (s : State) : (writeError s).hsLimit = s.hsLimit := rfl
@[simp] theorem writeError_hsAttempts (s : State) : (writeError s).hsAttempts = s.hsAttempts := rfl
@[simp] theorem writeError_frRes (s : State) : (writeError s).frRes = s.frRes := rfl
@[simp] theorem writeError_frEscCnt (s : State) : (writeError s).frEscCnt = s.frEscCnt := rfl
@[simp] theorem writeError_frLen (s : State) : (writeError s).frLen = s.frLen := rfl
@[simp] theorem writeError_frHaveLen (s : State) : (writeError s).frHaveLen = s.frHaveLen := rfl
@[simp] theorem writeError_frEscFlag (s : State) : (writeError s).frEscFlag = s.frEscFlag := rfl
@[simp] theorem writeError_frCnt (s : State) : (writeError s).frCnt = s.frCnt := rfl
@[simp] theorem writeError_frBufsize (s : State) : (writeError s).frBufsize = s.frBufsize := rfl
@[simp] theorem writeError_waOff (s : State) : (writeError s).waOff = s.waOff := rfl
@[simp] theorem writeError_waLen (s : State) : (writeError s).waLen = s.waLen := rfl
@[simp] theorem writeError_rxbuf (s : State) : (writeError s).rxbuf = s.rxbuf := rfl
@[simp] theorem writeError_txbuf (s : State) : (writeError s).txbuf = s.txbuf := rfl
@[simp] theorem writeError_events (s : State) : (writeError s).events = s.events := rfl
@[simp] theorem writeError_cfg (s : State) : (writeError s).cfg = s.cfg := rfl
@[simp] theorem writeError_rxDraw (s : State) : (writeError s).rxDraw = s.rxDraw := rfl
@[simp] theorem writeError_txDraw (s : State) : (writeError s).txDraw = s.txDraw := rfl
@[simp] theorem writeError_answer (s : State) : (writeError s).answer = s.answer := rfl
@[simp] theorem writeError_pending (s : State) : (writeError s).pending = s.pending := rfl

/-! ### readError -/

@[simp] theorem readError_seq (s : State) : (readError s).seq = s.seq := rfl
@[simp] theorem readError_done (s : State) : (readError s).done = s.done := rfl
@[simp] theorem readError_fault (s : State) : (readError s).fault = true := rfl
@[simp] theorem readError_cancelPending (s : State) : (readError s).cancelPending = s.cancelPending := rfl
@[simp] theorem readError_lastOp (s : State) : (readError s).lastOp = s.lastOp := rfl
@[simp] theorem readError_cause (s : State) : (readError s).cause = s.cause := rfl
@[simp] theorem readError_faultCause (s : State) : (readError s).faultCause = if s.fault then s.faultCause else .busErr := rfl
@[simp] theorem readError_result (s : State) : (readError s).result = s.result := rfl
@[simp] theorem readError_debugEn (s : State) : (readError s).debugEn = s.debugEn := rfl
@[simp] theorem readError_irqEn (s : State) : (readError s).irqEn = s.irqEn := rfl
@[simp] theorem readError_hsLimit (s : State) : (readError s).hsLimit = s.hsLimit := rfl
@[simp] theorem readError_hsAttempts (s : State) : (readError s).hsAttempts = s.hsAttempts := rfl
@[simp] theorem readError_frRes (s : State) : (readError s).frRes = s.frRes := rfl
@[simp] theorem readError_frEscCnt (s : State) : (readError s).frEscCnt = s.frEscCnt := rfl
@[simp] theorem readError_frLen (s : State) : (readError s).frLen = s.frLen := rfl
@[simp] theorem readError_frHaveLen (s : State) : (readError s).frHaveLen = s.frHaveLen := rfl
@[simp] theorem readError_frEscFlag (s : State) : (readError s).frEscFlag = s.frEscFlag := rfl
@[simp] theorem readError_frCnt (s : State) : (readError s).frCnt = s.frCnt := rfl
@[simp] theorem readError_frBufsize (s : State) : (readError s).frBufsize = s.frBufsize := rfl
@[simp] theorem readError_waOff (s : State) : (readError s).waOff = s.waOff := rfl
@[simp] theorem readError_waLen (s : State) : (readError s).waLen = s.waLen := rfl
@[simp] theorem readError_rxbuf (s : State) : (readError s).rxbuf = s.rxbuf := rfl
@[simp] theorem readError_txbuf (s : State) : (readError s).txbuf = s.txbuf := rfl
@[simp] theorem readError_events (s : State) : (readError s).events = s.events := rfl
@[simp] theorem readError_cfg (s : State) : (readError s).cfg = s.cfg := rfl
@[simp] theorem readError_rxDraw (s : State) : (readError s).rxDraw = s.rxDraw := rfl
@[simp] theorem readError_txDraw (s : State) : (readError s).txDraw = s.txDraw := rfl
@[simp] theorem readError_answer (s : State) : (readError s).answer = some 0#32 := rfl
@[simp] theorem readError_pending (s : State) : (readError s).pending = s.pending := rfl

/-! ### beginIteration -/

@[simp] theorem beginIteration_seq (s : State) : (beginIteration s).seq = .hsWa := rfl
@[simp] theorem beginIteration_done (s : State) : (beginIteration s).done = s.done := rfl
@[simp] theorem beginIteration_fault (s : State) : (beginIteration s).fault = s.fault := rfl
@[simp] theorem beginIteration_cancelPending (s : State) : (beginIteration s).cancelPending = s.cancelPending := rfl
@[simp] theorem beginIteration_lastOp (s : State) : (beginIteration s).lastOp = s.lastOp := rfl
@[simp] theorem beginIteration_cause (s : State) : (beginIteration s).cause = s.cause := rfl
@[simp] theorem beginIteration_faultCause (s : State) : (beginIteration s).faultCause = s.faultCause := rfl
@[simp] theorem beginIteration_result (s : State) : (beginIteration s).result = s.result := rfl
@[simp] theorem beginIteration_debugEn (s : State) : (beginIteration s).debugEn = s.debugEn := rfl
@[simp] theorem beginIteration_irqEn (s : State) : (beginIteration s).irqEn = s.irqEn := rfl
@[simp] theorem beginIteration_hsLimit (s : State) : (beginIteration s).hsLimit = s.hsLimit := rfl
@[simp] theorem beginIteration_hsAttempts (s : State) : (beginIteration s).hsAttempts = s.hsAttempts + 1 := rfl
@[simp] theorem beginIteration_frRes (s : State) : (beginIteration s).frRes = s.frRes := rfl
@[simp] theorem beginIteration_frEscCnt (s : State) : (beginIteration s).frEscCnt = s.frEscCnt := rfl
@[simp] theorem beginIteration_frLen (s : State) : (beginIteration s).frLen = s.frLen := rfl
@[simp] theorem beginIteration_frHaveLen (s : State) : (beginIteration s).frHaveLen = s.frHaveLen := rfl
@[simp] theorem beginIteration_frEscFlag (s : State) : (beginIteration s).frEscFlag = s.frEscFlag := rfl
@[simp] theorem beginIteration_frCnt (s : State) : (beginIteration s).frCnt = s.frCnt := rfl
@[simp] theorem beginIteration_frBufsize (s : State) : (beginIteration s).frBufsize = s.frBufsize := rfl
@[simp] theorem beginIteration_waOff (s : State) : (beginIteration s).waOff = 0 := rfl
@[simp] theorem beginIteration_waLen (s : State) : (beginIteration s).waLen = 8 := rfl
@[simp] theorem beginIteration_rxbuf (s : State) : (beginIteration s).rxbuf = s.rxbuf := rfl
@[simp] theorem beginIteration_txbuf (s : State) : (beginIteration s).txbuf = s.txbuf := rfl
@[simp] theorem beginIteration_events (s : State) : (beginIteration s).events = s.events ++ [.flush] := rfl
@[simp] theorem beginIteration_cfg (s : State) : (beginIteration s).cfg = s.cfg := rfl
@[simp] theorem beginIteration_rxDraw (s : State) : (beginIteration s).rxDraw = s.rxDraw := rfl
@[simp] theorem beginIteration_txDraw (s : State) : (beginIteration s).txDraw = s.txDraw := rfl
@[simp] theorem beginIteration_answer (s : State) : (beginIteration s).answer = s.answer := rfl
@[simp] theorem beginIteration_pending (s : State) : (beginIteration s).pending = s.pending := rfl

/-! ### hsStartRun -/

@[simp] theorem hsStartRun_seq (s : State) : (hsStartRun s).seq = .hsWa := rfl
@[simp] theorem hsStartRun_done (s : State) : (hsStartRun s).done = s.done := rfl
@[simp] theorem hsStartRun_fault (s : State) : (hsStartRun s).fault = s.fault := rfl
@[simp] theorem hsStartRun_cancelPending (s : State) : (hsStartRun s).cancelPending = false := rfl
@[simp] theorem hsStartRun_lastOp (s : State) : (hsStartRun s).lastOp = s.lastOp := rfl
@[simp] theorem hsStartRun_cause (s : State) : (hsStartRun s).cause = s.cause := rfl
@[simp] theorem hsStartRun_faultCause (s : State) : (hsStartRun s).faultCause = s.faultCause := rfl
@[simp] theorem hsStartRun_result (s : State) : (hsStartRun s).result = s.result := rfl
@[simp] theorem hsStartRun_debugEn (s : State) : (hsStartRun s).debugEn = s.debugEn := rfl
@[simp] theorem hsStartRun_irqEn (s : State) : (hsStartRun s).irqEn = s.irqEn := rfl
@[simp] theorem hsStartRun_hsLimit (s : State) : (hsStartRun s).hsLimit = s.hsLimit := rfl
@[simp] theorem hsStartRun_hsAttempts (s : State) : (hsStartRun s).hsAttempts = 1 := rfl
@[simp] theorem hsStartRun_frRes (s : State) : (hsStartRun s).frRes = s.frRes := rfl
@[simp] theorem hsStartRun_frEscCnt (s : State) : (hsStartRun s).frEscCnt = s.frEscCnt := rfl
@[simp] theorem hsStartRun_frLen (s : State) : (hsStartRun s).frLen = s.frLen := rfl
@[simp] theorem hsStartRun_frHaveLen (s : State) : (hsStartRun s).frHaveLen = s.frHaveLen := rfl
@[simp] theorem hsStartRun_frEscFlag (s : State) : (hsStartRun s).frEscFlag = s.frEscFlag := rfl
@[simp] theorem hsStartRun_frCnt (s : State) : (hsStartRun s).frCnt = s.frCnt := rfl
@[simp] theorem hsStartRun_frBufsize (s : State) : (hsStartRun s).frBufsize = s.frBufsize := rfl
@[simp] theorem hsStartRun_waOff (s : State) : (hsStartRun s).waOff = 0 := rfl
@[simp] theorem hsStartRun_waLen (s : State) : (hsStartRun s).waLen = 8 := rfl
@[simp] theorem hsStartRun_rxbuf (s : State) : (hsStartRun s).rxbuf = s.rxbuf := rfl
@[simp] theorem hsStartRun_txbuf (s : State) : (hsStartRun s).txbuf = s.txbuf := rfl
@[simp] theorem hsStartRun_events (s : State) : (hsStartRun s).events = s.events ++ [.flush] := rfl
@[simp] theorem hsStartRun_cfg (s : State) : (hsStartRun s).cfg = s.cfg := rfl
@[simp] theorem hsStartRun_rxDraw (s : State) : (hsStartRun s).rxDraw = s.rxDraw := rfl
@[simp] theorem hsStartRun_txDraw (s : State) : (hsStartRun s).txDraw = s.txDraw := rfl
@[simp] theorem hsStartRun_answer (s : State) : (hsStartRun s).answer = s.answer := rfl
@[simp] theorem hsStartRun_pending (s : State) : (hsStartRun s).pending = s.pending := rfl

/-! ### afterReset -/

@[simp] theorem afterReset_seq (s : State) : (afterReset s).seq = .idle := rfl
@[simp] theorem afterReset_done (s : State) : (afterReset s).done = false := rfl
@[simp] theorem afterReset_fault (s : State) : (afterReset s).fault = false := rfl
@[simp] theorem afterReset_cancelPending (s : State) : (afterReset s).cancelPending = false := rfl
@[simp] theorem afterReset_lastOp (s : State) : (afterReset s).lastOp = .none := rfl
@[simp] theorem afterReset_cause (s : State) : (afterReset s).cause = .none := rfl
@[simp] theorem afterReset_faultCause (s : State) : (afterReset s).faultCause = .none := rfl
@[simp] theorem afterReset_result (s : State) : (afterReset s).result = 0 := rfl
@[simp] theorem afterReset_debugEn (s : State) : (afterReset s).debugEn = false := rfl
@[simp] theorem afterReset_irqEn (s : State) : (afterReset s).irqEn = false := rfl
@[simp] theorem afterReset_hsLimit (s : State) : (afterReset s).hsLimit = 0 := rfl
@[simp] theorem afterReset_hsAttempts (s : State) : (afterReset s).hsAttempts = 0 := rfl
@[simp] theorem afterReset_frRes (s : State) : (afterReset s).frRes = 0 := rfl
@[simp] theorem afterReset_frEscCnt (s : State) : (afterReset s).frEscCnt = 0 := rfl
@[simp] theorem afterReset_frLen (s : State) : (afterReset s).frLen = 0 := rfl
@[simp] theorem afterReset_frHaveLen (s : State) : (afterReset s).frHaveLen = false := rfl
@[simp] theorem afterReset_frEscFlag (s : State) : (afterReset s).frEscFlag = false := rfl
@[simp] theorem afterReset_frCnt (s : State) : (afterReset s).frCnt = 0 := rfl
@[simp] theorem afterReset_frBufsize (s : State) : (afterReset s).frBufsize = 0 := rfl
@[simp] theorem afterReset_waOff (s : State) : (afterReset s).waOff = 0 := rfl
@[simp] theorem afterReset_waLen (s : State) : (afterReset s).waLen = 0 := rfl
@[simp] theorem afterReset_rxbuf (s : State) : (afterReset s).rxbuf = [] := rfl
@[simp] theorem afterReset_txbuf (s : State) : (afterReset s).txbuf = [] := rfl
@[simp] theorem afterReset_events (s : State) : (afterReset s).events = s.events := rfl
@[simp] theorem afterReset_cfg (s : State) : (afterReset s).cfg = s.cfg := rfl
@[simp] theorem afterReset_rxDraw (s : State) : (afterReset s).rxDraw = s.rxDraw + 1 := rfl
@[simp] theorem afterReset_txDraw (s : State) : (afterReset s).txDraw = s.txDraw + 1 := rfl
@[simp] theorem afterReset_answer (s : State) : (afterReset s).answer = s.answer := rfl
@[simp] theorem afterReset_pending (s : State) : (afterReset s).pending = s.pending := rfl

/-! ### takeRecord -/

@[simp] theorem takeRecord_seq (rest : List Record) (s : State) : (takeRecord rest s).seq = s.seq := rfl
@[simp] theorem takeRecord_done (rest : List Record) (s : State) : (takeRecord rest s).done = s.done := rfl
@[simp] theorem takeRecord_fault (rest : List Record) (s : State) : (takeRecord rest s).fault = s.fault := rfl
@[simp] theorem takeRecord_cancelPending (rest : List Record) (s : State) : (takeRecord rest s).cancelPending = s.cancelPending := rfl
@[simp] theorem takeRecord_lastOp (rest : List Record) (s : State) : (takeRecord rest s).lastOp = s.lastOp := rfl
@[simp] theorem takeRecord_cause (rest : List Record) (s : State) : (takeRecord rest s).cause = s.cause := rfl
@[simp] theorem takeRecord_faultCause (rest : List Record) (s : State) : (takeRecord rest s).faultCause = s.faultCause := rfl
@[simp] theorem takeRecord_result (rest : List Record) (s : State) : (takeRecord rest s).result = s.result := rfl
@[simp] theorem takeRecord_debugEn (rest : List Record) (s : State) : (takeRecord rest s).debugEn = s.debugEn := rfl
@[simp] theorem takeRecord_irqEn (rest : List Record) (s : State) : (takeRecord rest s).irqEn = s.irqEn := rfl
@[simp] theorem takeRecord_hsLimit (rest : List Record) (s : State) : (takeRecord rest s).hsLimit = s.hsLimit := rfl
@[simp] theorem takeRecord_hsAttempts (rest : List Record) (s : State) : (takeRecord rest s).hsAttempts = s.hsAttempts := rfl
@[simp] theorem takeRecord_frRes (rest : List Record) (s : State) : (takeRecord rest s).frRes = s.frRes := rfl
@[simp] theorem takeRecord_frEscCnt (rest : List Record) (s : State) : (takeRecord rest s).frEscCnt = s.frEscCnt := rfl
@[simp] theorem takeRecord_frLen (rest : List Record) (s : State) : (takeRecord rest s).frLen = s.frLen := rfl
@[simp] theorem takeRecord_frHaveLen (rest : List Record) (s : State) : (takeRecord rest s).frHaveLen = s.frHaveLen := rfl
@[simp] theorem takeRecord_frEscFlag (rest : List Record) (s : State) : (takeRecord rest s).frEscFlag = s.frEscFlag := rfl
@[simp] theorem takeRecord_frCnt (rest : List Record) (s : State) : (takeRecord rest s).frCnt = s.frCnt := rfl
@[simp] theorem takeRecord_frBufsize (rest : List Record) (s : State) : (takeRecord rest s).frBufsize = s.frBufsize := rfl
@[simp] theorem takeRecord_waOff (rest : List Record) (s : State) : (takeRecord rest s).waOff = s.waOff := rfl
@[simp] theorem takeRecord_waLen (rest : List Record) (s : State) : (takeRecord rest s).waLen = s.waLen := rfl
@[simp] theorem takeRecord_rxbuf (rest : List Record) (s : State) : (takeRecord rest s).rxbuf = s.rxbuf := rfl
@[simp] theorem takeRecord_txbuf (rest : List Record) (s : State) : (takeRecord rest s).txbuf = s.txbuf := rfl
@[simp] theorem takeRecord_events (rest : List Record) (s : State) : (takeRecord rest s).events = s.events := rfl
@[simp] theorem takeRecord_cfg (rest : List Record) (s : State) : (takeRecord rest s).cfg = s.cfg := rfl
@[simp] theorem takeRecord_rxDraw (rest : List Record) (s : State) : (takeRecord rest s).rxDraw = s.rxDraw := rfl
@[simp] theorem takeRecord_txDraw (rest : List Record) (s : State) : (takeRecord rest s).txDraw = s.txDraw := rfl
@[simp] theorem takeRecord_answer (rest : List Record) (s : State) : (takeRecord rest s).answer = s.answer := rfl
@[simp] theorem takeRecord_pending (rest : List Record) (s : State) : (takeRecord rest s).pending = rest := rfl

/-! ### emitTx -/

@[simp] theorem emitTx_seq (bs : List Byte) (s : State) : (emitTx bs s).seq = s.seq := by unfold emitTx; split <;> rfl
@[simp] theorem emitTx_done (bs : List Byte) (s : State) : (emitTx bs s).done = s.done := by unfold emitTx; split <;> rfl
@[simp] theorem emitTx_fault (bs : List Byte) (s : State) : (emitTx bs s).fault = s.fault := by unfold emitTx; split <;> rfl
@[simp] theorem emitTx_cancelPending (bs : List Byte) (s : State) : (emitTx bs s).cancelPending = s.cancelPending := by unfold emitTx; split <;> rfl
@[simp] theorem emitTx_lastOp (bs : List Byte) (s : State) : (emitTx bs s).lastOp = s.lastOp := by unfold emitTx; split <;> rfl
@[simp] theorem emitTx_cause (bs : List Byte) (s : State) : (emitTx bs s).cause = s.cause := by unfold emitTx; split <;> rfl
@[simp] theorem emitTx_faultCause (bs : List Byte) (s : State) : (emitTx bs s).faultCause = s.faultCause := by unfold emitTx; split <;> rfl
@[simp] theorem emitTx_result (bs : List Byte) (s : State) : (emitTx bs s).result = s.result := by unfold emitTx; split <;> rfl
@[simp] theorem emitTx_debugEn (bs : List Byte) (s : State) : (emitTx bs s).debugEn = s.debugEn := by unfold emitTx; split <;> rfl
@[simp] theorem emitTx_irqEn (bs : List Byte) (s : State) : (emitTx bs s).irqEn = s.irqEn := by unfold emitTx; split <;> rfl
@[simp] theorem emitTx_hsLimit (bs : List Byte) (s : State) : (emitTx bs s).hsLimit = s.hsLimit := by unfold emitTx; split <;> rfl
@[simp] theorem emitTx_hsAttempts (bs : List Byte) (s : State) : (emitTx bs s).hsAttempts = s.hsAttempts := by unfold emitTx; split <;> rfl
@[simp] theorem emitTx_frRes (bs : List Byte) (s : State) : (emitTx bs s).frRes = s.frRes := by unfold emitTx; split <;> rfl
@[simp] theorem emitTx_frEscCnt (bs : List Byte) (s : State) : (emitTx bs s).frEscCnt = s.frEscCnt := by unfold emitTx; split <;> rfl
@[simp] theorem emitTx_frLen (bs : List Byte) (s : State) : (emitTx bs s).frLen = s.frLen := by unfold emitTx; split <;> rfl
@[simp] theorem emitTx_frHaveLen (bs : List Byte) (s : State) : (emitTx bs s).frHaveLen = s.frHaveLen := by unfold emitTx; split <;> rfl
@[simp] theorem emitTx_frEscFlag (bs : List Byte) (s : State) : (emitTx bs s).frEscFlag = s.frEscFlag := by unfold emitTx; split <;> rfl
@[simp] theorem emitTx_frCnt (bs : List Byte) (s : State) : (emitTx bs s).frCnt = s.frCnt := by unfold emitTx; split <;> rfl
@[simp] theorem emitTx_frBufsize (bs : List Byte) (s : State) : (emitTx bs s).frBufsize = s.frBufsize := by unfold emitTx; split <;> rfl
@[simp] theorem emitTx_waOff (bs : List Byte) (s : State) : (emitTx bs s).waOff = s.waOff := by unfold emitTx; split <;> rfl
@[simp] theorem emitTx_waLen (bs : List Byte) (s : State) : (emitTx bs s).waLen = s.waLen := by unfold emitTx; split <;> rfl
@[simp] theorem emitTx_rxbuf (bs : List Byte) (s : State) : (emitTx bs s).rxbuf = s.rxbuf := by unfold emitTx; split <;> rfl
@[simp] theorem emitTx_txbuf (bs : List Byte) (s : State) : (emitTx bs s).txbuf = s.txbuf := by unfold emitTx; split <;> rfl
@[simp] theorem emitTx_cfg (bs : List Byte) (s : State) : (emitTx bs s).cfg = s.cfg := by unfold emitTx; split <;> rfl
@[simp] theorem emitTx_rxDraw (bs : List Byte) (s : State) : (emitTx bs s).rxDraw = s.rxDraw := by unfold emitTx; split <;> rfl
@[simp] theorem emitTx_txDraw (bs : List Byte) (s : State) : (emitTx bs s).txDraw = s.txDraw := by unfold emitTx; split <;> rfl
@[simp] theorem emitTx_answer (bs : List Byte) (s : State) : (emitTx bs s).answer = s.answer := by unfold emitTx; split <;> rfl
@[simp] theorem emitTx_pending (bs : List Byte) (s : State) : (emitTx bs s).pending = s.pending := by unfold emitTx; split <;> rfl

/-! ### dumpAtEnd -/

@[simp] theorem dumpAtEnd_seq (r : Word) (s : State) : (dumpAtEnd r s).seq = s.seq := by unfold dumpAtEnd; split <;> rfl
@[simp] theorem dumpAtEnd_done (r : Word) (s : State) : (dumpAtEnd r s).done = s.done := by unfold dumpAtEnd; split <;> rfl
@[simp] theorem dumpAtEnd_fault (r : Word) (s : State) : (dumpAtEnd r s).fault = s.fault := by unfold dumpAtEnd; split <;> rfl
@[simp] theorem dumpAtEnd_cancelPending (r : Word) (s : State) : (dumpAtEnd r s).cancelPending = s.cancelPending := by unfold dumpAtEnd; split <;> rfl
@[simp] theorem dumpAtEnd_lastOp (r : Word) (s : State) : (dumpAtEnd r s).lastOp = s.lastOp := by unfold dumpAtEnd; split <;> rfl
@[simp] theorem dumpAtEnd_cause (r : Word) (s : State) : (dumpAtEnd r s).cause = s.cause := by unfold dumpAtEnd; split <;> rfl
@[simp] theorem dumpAtEnd_faultCause (r : Word) (s : State) : (dumpAtEnd r s).faultCause = s.faultCause := by unfold dumpAtEnd; split <;> rfl
@[simp] theorem dumpAtEnd_result (r : Word) (s : State) : (dumpAtEnd r s).result = s.result := by unfold dumpAtEnd; split <;> rfl
@[simp] theorem dumpAtEnd_debugEn (r : Word) (s : State) : (dumpAtEnd r s).debugEn = s.debugEn := by unfold dumpAtEnd; split <;> rfl
@[simp] theorem dumpAtEnd_irqEn (r : Word) (s : State) : (dumpAtEnd r s).irqEn = s.irqEn := by unfold dumpAtEnd; split <;> rfl
@[simp] theorem dumpAtEnd_hsLimit (r : Word) (s : State) : (dumpAtEnd r s).hsLimit = s.hsLimit := by unfold dumpAtEnd; split <;> rfl
@[simp] theorem dumpAtEnd_hsAttempts (r : Word) (s : State) : (dumpAtEnd r s).hsAttempts = s.hsAttempts := by unfold dumpAtEnd; split <;> rfl
@[simp] theorem dumpAtEnd_frRes (r : Word) (s : State) : (dumpAtEnd r s).frRes = s.frRes := by unfold dumpAtEnd; split <;> rfl
@[simp] theorem dumpAtEnd_frEscCnt (r : Word) (s : State) : (dumpAtEnd r s).frEscCnt = s.frEscCnt := by unfold dumpAtEnd; split <;> rfl
@[simp] theorem dumpAtEnd_frLen (r : Word) (s : State) : (dumpAtEnd r s).frLen = s.frLen := by unfold dumpAtEnd; split <;> rfl
@[simp] theorem dumpAtEnd_frHaveLen (r : Word) (s : State) : (dumpAtEnd r s).frHaveLen = s.frHaveLen := by unfold dumpAtEnd; split <;> rfl
@[simp] theorem dumpAtEnd_frEscFlag (r : Word) (s : State) : (dumpAtEnd r s).frEscFlag = s.frEscFlag := by unfold dumpAtEnd; split <;> rfl
@[simp] theorem dumpAtEnd_frCnt (r : Word) (s : State) : (dumpAtEnd r s).frCnt = s.frCnt := by unfold dumpAtEnd; split <;> rfl
@[simp] theorem dumpAtEnd_frBufsize (r : Word) (s : State) : (dumpAtEnd r s).frBufsize = s.frBufsize := by unfold dumpAtEnd; split <;> rfl
@[simp] theorem dumpAtEnd_waOff (r : Word) (s : State) : (dumpAtEnd r s).waOff = s.waOff := by unfold dumpAtEnd; split <;> rfl
@[simp] theorem dumpAtEnd_waLen (r : Word) (s : State) : (dumpAtEnd r s).waLen = s.waLen := by unfold dumpAtEnd; split <;> rfl
@[simp] theorem dumpAtEnd_rxbuf (r : Word) (s : State) : (dumpAtEnd r s).rxbuf = s.rxbuf := by unfold dumpAtEnd; split <;> rfl
@[simp] theorem dumpAtEnd_txbuf (r : Word) (s : State) : (dumpAtEnd r s).txbuf = s.txbuf := by unfold dumpAtEnd; split <;> rfl
@[simp] theorem dumpAtEnd_cfg (r : Word) (s : State) : (dumpAtEnd r s).cfg = s.cfg := by unfold dumpAtEnd; split <;> rfl
@[simp] theorem dumpAtEnd_rxDraw (r : Word) (s : State) : (dumpAtEnd r s).rxDraw = s.rxDraw := by unfold dumpAtEnd; split <;> rfl
@[simp] theorem dumpAtEnd_txDraw (r : Word) (s : State) : (dumpAtEnd r s).txDraw = s.txDraw := by unfold dumpAtEnd; split <;> rfl
@[simp] theorem dumpAtEnd_answer (r : Word) (s : State) : (dumpAtEnd r s).answer = s.answer := by unfold dumpAtEnd; split <;> rfl
@[simp] theorem dumpAtEnd_pending (r : Word) (s : State) : (dumpAtEnd r s).pending = s.pending := by unfold dumpAtEnd; split <;> rfl

/-! ### forgetAtEnd -/

@[simp] theorem forgetAtEnd_seq (r : Word) (s : State) : (forgetAtEnd r s).seq = s.seq := by unfold forgetAtEnd; split <;> rfl
@[simp] theorem forgetAtEnd_done (r : Word) (s : State) : (forgetAtEnd r s).done = s.done := by unfold forgetAtEnd; split <;> rfl
@[simp] theorem forgetAtEnd_fault (r : Word) (s : State) : (forgetAtEnd r s).fault = s.fault := by unfold forgetAtEnd; split <;> rfl
@[simp] theorem forgetAtEnd_cancelPending (r : Word) (s : State) : (forgetAtEnd r s).cancelPending = s.cancelPending := by unfold forgetAtEnd; split <;> rfl
@[simp] theorem forgetAtEnd_lastOp (r : Word) (s : State) : (forgetAtEnd r s).lastOp = s.lastOp := by unfold forgetAtEnd; split <;> rfl
@[simp] theorem forgetAtEnd_cause (r : Word) (s : State) : (forgetAtEnd r s).cause = s.cause := by unfold forgetAtEnd; split <;> rfl
@[simp] theorem forgetAtEnd_faultCause (r : Word) (s : State) : (forgetAtEnd r s).faultCause = s.faultCause := by unfold forgetAtEnd; split <;> rfl
@[simp] theorem forgetAtEnd_result (r : Word) (s : State) : (forgetAtEnd r s).result = s.result := by unfold forgetAtEnd; split <;> rfl
@[simp] theorem forgetAtEnd_debugEn (r : Word) (s : State) : (forgetAtEnd r s).debugEn = s.debugEn := by unfold forgetAtEnd; split <;> rfl
@[simp] theorem forgetAtEnd_irqEn (r : Word) (s : State) : (forgetAtEnd r s).irqEn = s.irqEn := by unfold forgetAtEnd; split <;> rfl
@[simp] theorem forgetAtEnd_hsLimit (r : Word) (s : State) : (forgetAtEnd r s).hsLimit = s.hsLimit := by unfold forgetAtEnd; split <;> rfl
@[simp] theorem forgetAtEnd_hsAttempts (r : Word) (s : State) : (forgetAtEnd r s).hsAttempts = s.hsAttempts := by unfold forgetAtEnd; split <;> rfl
@[simp] theorem forgetAtEnd_frRes (r : Word) (s : State) : (forgetAtEnd r s).frRes = s.frRes := by unfold forgetAtEnd; split <;> rfl
@[simp] theorem forgetAtEnd_frEscCnt (r : Word) (s : State) : (forgetAtEnd r s).frEscCnt = s.frEscCnt := by unfold forgetAtEnd; split <;> rfl
@[simp] theorem forgetAtEnd_frLen (r : Word) (s : State) : (forgetAtEnd r s).frLen = s.frLen := by unfold forgetAtEnd; split <;> rfl
@[simp] theorem forgetAtEnd_frHaveLen (r : Word) (s : State) : (forgetAtEnd r s).frHaveLen = s.frHaveLen := by unfold forgetAtEnd; split <;> rfl
@[simp] theorem forgetAtEnd_frEscFlag (r : Word) (s : State) : (forgetAtEnd r s).frEscFlag = s.frEscFlag := by unfold forgetAtEnd; split <;> rfl
@[simp] theorem forgetAtEnd_frCnt (r : Word) (s : State) : (forgetAtEnd r s).frCnt = s.frCnt := by unfold forgetAtEnd; split <;> rfl
@[simp] theorem forgetAtEnd_frBufsize (r : Word) (s : State) : (forgetAtEnd r s).frBufsize = s.frBufsize := by unfold forgetAtEnd; split <;> rfl
@[simp] theorem forgetAtEnd_waOff (r : Word) (s : State) : (forgetAtEnd r s).waOff = s.waOff := by unfold forgetAtEnd; split <;> rfl
@[simp] theorem forgetAtEnd_waLen (r : Word) (s : State) : (forgetAtEnd r s).waLen = s.waLen := by unfold forgetAtEnd; split <;> rfl
@[simp] theorem forgetAtEnd_txbuf (r : Word) (s : State) : (forgetAtEnd r s).txbuf = s.txbuf := by unfold forgetAtEnd; split <;> rfl
@[simp] theorem forgetAtEnd_events (r : Word) (s : State) : (forgetAtEnd r s).events = s.events := by unfold forgetAtEnd; split <;> rfl
@[simp] theorem forgetAtEnd_cfg (r : Word) (s : State) : (forgetAtEnd r s).cfg = s.cfg := by unfold forgetAtEnd; split <;> rfl
@[simp] theorem forgetAtEnd_txDraw (r : Word) (s : State) : (forgetAtEnd r s).txDraw = s.txDraw := by unfold forgetAtEnd; split <;> rfl
@[simp] theorem forgetAtEnd_answer (r : Word) (s : State) : (forgetAtEnd r s).answer = s.answer := by unfold forgetAtEnd; split <;> rfl
@[simp] theorem forgetAtEnd_pending (r : Word) (s : State) : (forgetAtEnd r s).pending = s.pending := by unfold forgetAtEnd; split <;> rfl

/-! ### waSend -/

@[simp] theorem waSend_seq (k : Nat) (s : State) : (waSend k s).seq = s.seq := by simp [waSend]
@[simp] theorem waSend_done (k : Nat) (s : State) : (waSend k s).done = s.done := by simp [waSend]
@[simp] theorem waSend_fault (k : Nat) (s : State) : (waSend k s).fault = s.fault := by simp [waSend]
@[simp] theorem waSend_cancelPending (k : Nat) (s : State) : (waSend k s).cancelPending = s.cancelPending := by simp [waSend]
@[simp] theorem waSend_lastOp (k : Nat) (s : State) : (waSend k s).lastOp = s.lastOp := by simp [waSend]
@[simp] theorem waSend_cause (k : Nat) (s : State) : (waSend k s).cause = s.cause := by simp [waSend]
@[simp] theorem waSend_faultCause (k : Nat) (s : State) : (waSend k s).faultCause = s.faultCause := by simp [waSend]
@[simp] theorem waSend_result (k : Nat) (s : State) : (waSend k s).result = s.result := by simp [waSend]
@[simp] theorem waSend_debugEn (k : Nat) (s : State) : (waSend k s).debugEn = s.debugEn := by simp [waSend]
@[simp] theorem waSend_irqEn (k : Nat) (s : State) : (waSend k s).irqEn = s.irqEn := by simp [waSend]
@[simp] theorem waSend_hsLimit (k : Nat) (s : State) : (waSend k s).hsLimit = s.hsLimit := by simp [waSend]
@[simp] theorem waSend_hsAttempts (k : Nat) (s : State) : (waSend k s).hsAttempts = s.hsAttempts := by simp [waSend]
@[simp] theorem waSend_frRes (k : Nat) (s : State) : (waSend k s).frRes = s.frRes := by simp [waSend]
@[simp] theorem waSend_frEscCnt (k : Nat) (s : State) : (waSend k s).frEscCnt = s.frEscCnt := by simp [waSend]
@[simp] theorem waSend_frLen (k : Nat) (s : State) : (waSend k s).frLen = s.frLen := by simp [waSend]
@[simp] theorem waSend_frHaveLen (k : Nat) (s : State) : (waSend k s).frHaveLen = s.frHaveLen := by simp [waSend]
@[simp] theorem waSend_frEscFlag (k : Nat) (s : State) : (waSend k s).frEscFlag = s.frEscFlag := by simp [waSend]
@[simp] theorem waSend_frCnt (k : Nat) (s : State) : (waSend k s).frCnt = s.frCnt := by simp [waSend]
@[simp] theorem waSend_frBufsize (k : Nat) (s : State) : (waSend k s).frBufsize = s.frBufsize := by simp [waSend]
@[simp] theorem waSend_waLen (k : Nat) (s : State) : (waSend k s).waLen = s.waLen := by simp [waSend]
@[simp] theorem waSend_rxbuf (k : Nat) (s : State) : (waSend k s).rxbuf = s.rxbuf := by simp [waSend]
@[simp] theorem waSend_txbuf (k : Nat) (s : State) : (waSend k s).txbuf = s.txbuf := by simp [waSend]
@[simp] theorem waSend_cfg (k : Nat) (s : State) : (waSend k s).cfg = s.cfg := by simp [waSend]
@[simp] theorem waSend_rxDraw (k : Nat) (s : State) : (waSend k s).rxDraw = s.rxDraw := by simp [waSend]
@[simp] theorem waSend_txDraw (k : Nat) (s : State) : (waSend k s).txDraw = s.txDraw := by simp [waSend]
@[simp] theorem waSend_answer (k : Nat) (s : State) : (waSend k s).answer = s.answer := by simp [waSend]
@[simp] theorem waSend_pending (k : Nat) (s : State) : (waSend k s).pending = s.pending := by simp [waSend]

/-! ### frAccumulate -/

@[simp] theorem frAccumulate_seq (v : Byte) (s : State) : (frAccumulate v s).seq = s.seq := by unfold frAccumulate; split <;> [rfl; (split <;> rfl)]
@[simp] theorem frAccumulate_done (v : Byte) (s : State) : (frAccumulate v s).done = s.done := by unfold frAccumulate; split <;> [rfl; (split <;> rfl)]
@[simp] theorem frAccumulate_fault (v : Byte) (s : State) : (frAccumulate v s).fault = s.fault := by unfold frAccumulate; split <;> [rfl; (split <;> rfl)]
@[simp] theorem frAccumulate_cancelPending (v : Byte) (s : State) : (frAccumulate v s).cancelPending = s.cancelPending := by unfold frAccumulate; split <;> [rfl; (split <;> rfl)]
@[simp] theorem frAccumulate_lastOp (v : Byte) (s : State) : (frAccumulate v s).lastOp = s.lastOp := by unfold frAccumulate; split <;> [rfl; (split <;> rfl)]
@[simp] theorem frAccumulate_cause (v : Byte) (s : State) : (frAccumulate v s).cause = s.cause := by unfold frAccumulate; split <;> [rfl; (split <;> rfl)]
@[simp] theorem frAccumulate_faultCause (v : Byte) (s : State) : (frAccumulate v s).faultCause = s.faultCause := by unfold frAccumulate; split <;> [rfl; (split <;> rfl)]
@[simp] theorem frAccumulate_result (v : Byte) (s : State) : (frAccumulate v s).result = s.result := by unfold frAccumulate; split <;> [rfl; (split <;> rfl)]
@[simp] theorem frAccumulate_debugEn (v : Byte) (s : State) : (frAccumulate v s).debugEn = s.debugEn := by unfold frAccumulate; split <;> [rfl; (split <;> rfl)]
@[simp] theorem frAccumulate_irqEn (v : Byte) (s : State) : (frAccumulate v s).irqEn = s.irqEn := by unfold frAccumulate; split <;> [rfl; (split <;> rfl)]
@[simp] theorem frAccumulate_hsLimit (v : Byte) (s : State) : (frAccumulate v s).hsLimit = s.hsLimit := by unfold frAccumulate; split <;> [rfl; (split <;> rfl)]
@[simp] theorem frAccumulate_hsAttempts (v : Byte) (s : State) : (frAccumulate v s).hsAttempts = s.hsAttempts := by unfold frAccumulate; split <;> [rfl; (split <;> rfl)]
@[simp] theorem frAccumulate_frRes (v : Byte) (s : State) : (frAccumulate v s).frRes = s.frRes := by unfold frAccumulate; split <;> [rfl; (split <;> rfl)]
@[simp] theorem frAccumulate_frEscCnt (v : Byte) (s : State) : (frAccumulate v s).frEscCnt = s.frEscCnt := by unfold frAccumulate; split <;> [rfl; (split <;> rfl)]
@[simp] theorem frAccumulate_frEscFlag (v : Byte) (s : State) : (frAccumulate v s).frEscFlag = s.frEscFlag := by unfold frAccumulate; split <;> [rfl; (split <;> rfl)]
@[simp] theorem frAccumulate_frCnt (v : Byte) (s : State) : (frAccumulate v s).frCnt = s.frCnt := by unfold frAccumulate; split <;> [rfl; (split <;> rfl)]
@[simp] theorem frAccumulate_frBufsize (v : Byte) (s : State) : (frAccumulate v s).frBufsize = s.frBufsize := by unfold frAccumulate; split <;> [rfl; (split <;> rfl)]
@[simp] theorem frAccumulate_waOff (v : Byte) (s : State) : (frAccumulate v s).waOff = s.waOff := by unfold frAccumulate; split <;> [rfl; (split <;> rfl)]
@[simp] theorem frAccumulate_waLen (v : Byte) (s : State) : (frAccumulate v s).waLen = s.waLen := by unfold frAccumulate; split <;> [rfl; (split <;> rfl)]
@[simp] theorem frAccumulate_rxbuf (v : Byte) (s : State) : (frAccumulate v s).rxbuf = s.rxbuf := by unfold frAccumulate; split <;> [rfl; (split <;> rfl)]
@[simp] theorem frAccumulate_txbuf (v : Byte) (s : State) : (frAccumulate v s).txbuf = s.txbuf := by unfold frAccumulate; split <;> [rfl; (split <;> rfl)]
@[simp] theorem frAccumulate_events (v : Byte) (s : State) : (frAccumulate v s).events = s.events := by unfold frAccumulate; split <;> [rfl; (split <;> rfl)]
@[simp] theorem frAccumulate_cfg (v : Byte) (s : State) : (frAccumulate v s).cfg = s.cfg := by unfold frAccumulate; split <;> [rfl; (split <;> rfl)]
@[simp] theorem frAccumulate_rxDraw (v : Byte) (s : State) : (frAccumulate v s).rxDraw = s.rxDraw := by unfold frAccumulate; split <;> [rfl; (split <;> rfl)]
@[simp] theorem frAccumulate_txDraw (v : Byte) (s : State) : (frAccumulate v s).txDraw = s.txDraw := by unfold frAccumulate; split <;> [rfl; (split <;> rfl)]
@[simp] theorem frAccumulate_answer (v : Byte) (s : State) : (frAccumulate v s).answer = s.answer := by unfold frAccumulate; split <;> [rfl; (split <;> rfl)]
@[simp] theorem frAccumulate_pending (v : Byte) (s : State) : (frAccumulate v s).pending = s.pending := by unfold frAccumulate; split <;> [rfl; (split <;> rfl)]

end Sys2Proof.Machine
end

