-- ==== Sys2Proof/Laws/Ops.lean ====
section
/-! SUPPORT. What the shared operations do, said once: buffers, the ends and starts of operations, the per-byte step. -/

namespace Sys2Proof.Machine

/-! ### Buffers -/

theorem memLookup_memInsert_same (m : Memory) (i : Nat) (b : Byte) : memLookup (memInsert m i b) i = some b := by
  induction m with
  | nil => simp [memInsert, memLookup]
  | cons c m ih =>
    obtain ⟨k, v⟩ := c
    simp only [memInsert]
    split
    · simp [memLookup]
    · split
      · simp [memLookup]
      · rename_i h; simp [memLookup, Ne.symm h, ih]

theorem memLookup_memInsert_ne (m : Memory) {i j : Nat} (b : Byte) (h : j ≠ i) :
    memLookup (memInsert m i b) j = memLookup m j := by
  induction m with
  | nil => simp [memInsert, memLookup, Ne.symm h]
  | cons c m ih =>
    obtain ⟨k, v⟩ := c
    simp only [memInsert]
    split
    · simp [memLookup, Ne.symm h]
    · split
      · rename_i hk; subst hk; simp [memLookup, Ne.symm h]
      · simp [memLookup, ih]

theorem memRisingAbove_memInsert {lo i : Nat} (b : Byte) (h : lo < i) :
    ∀ m : Memory, memRisingAbove lo m = true → memRisingAbove lo (memInsert m i b) = true := by
  intro m
  induction m generalizing lo with
  | nil => simp [memInsert, memRisingAbove, h]
  | cons c m ih =>
    obtain ⟨k, v⟩ := c
    simp only [memInsert, memRisingAbove, Bool.and_eq_true, decide_eq_true_eq]
    rintro ⟨hk, hm⟩
    split
    · simp [memRisingAbove, *]
    · split
      · rename_i hik; subst hik; simp [memRisingAbove, h, hm]
      · have : k < i := by omega
        simp [memRisingAbove, hk, ih this hm]

/-- A write keeps the canonical form. -/
theorem wf_memInsert (m : Memory) (i : Nat) (b : Byte) (h : Memory.wf m = true) :
    Memory.wf (memInsert m i b) = true := by
  cases m with
  | nil => simp [memInsert, Memory.wf, memRisingAbove]
  | cons c m =>
    obtain ⟨k, v⟩ := c
    simp only [Memory.wf] at h
    simp only [memInsert]
    split
    · simp [Memory.wf, memRisingAbove, *]
    · split
      · rename_i hik; subst hik; simpa [Memory.wf] using h
      · have : k < i := by omega
        simpa [Memory.wf] using memRisingAbove_memInsert b this m h

theorem inside_memInsert {size i : Nat} (m : Memory) (b : Byte) (hi : i < size) (h : memInside size m = true) :
    memInside size (memInsert m i b) = true := by
  induction m with
  | nil => simp [memInsert, memInside, hi]
  | cons c m ih =>
    obtain ⟨k, v⟩ := c
    simp only [memInside, List.all_cons, Bool.and_eq_true, decide_eq_true_eq] at h
    have ih' := ih (by simpa [memInside] using h.2)
    simp only [memInsert]
    split
    · simpa [memInside, hi] using h
    · split
      · simpa [memInside, hi] using h.2
      · simpa [memInside, h.1] using ih'

theorem wf_nil : Memory.wf [] = true := rfl

theorem inside_nil (size : Nat) : memInside size [] = true := rfl

/-- Both buffers are in canonical form at reset. -/
theorem reset_buffers_wf (p : Config.Params) :
    Memory.wf (State.resetWith p).rxbuf = true ∧ Memory.wf (State.resetWith p).txbuf = true := ⟨rfl, rfl⟩

/-- Storing at the first free index of a buffer filled from the start lists the next index. -/
theorem memInsert_keys_range {n : Nat} (b : Byte) :
    ∀ m : Memory, m.map Prod.fst = List.range n → (memInsert m n b).map Prod.fst = List.range (n + 1) := by
  have aux : ∀ (m : Memory), (∀ k ∈ m.map Prod.fst, k < n) →
      (memInsert m n b).map Prod.fst = m.map Prod.fst ++ [n] := by
    intro m
    induction m with
    | nil => simp [memInsert]
    | cons c m ih =>
      obtain ⟨k, v⟩ := c
      intro h
      have hk : k < n := h k (by simp)
      have hm := ih fun k' hk' => h k' (by simp only [List.map_cons, List.mem_cons]; exact .inr hk')
      simp only [memInsert, if_neg (Nat.not_lt.mpr hk.le), if_neg (Nat.ne_of_gt hk)]
      simp [hm]
  intro m h
  rw [aux m (by simp [h]), h, List.range_succ]

theorem rxByteAt_congr {s t : State} (h1 : t.rxbuf = s.rxbuf) (h2 : t.rxDraw = s.rxDraw) (i : Nat) :
    rxByteAt t i = rxByteAt s i := by simp [rxByteAt, h1, h2]

theorem txByteAt_congr {s t : State} (h1 : t.txbuf = s.txbuf) (h2 : t.txDraw = s.txDraw) (i : Nat) :
    txByteAt t i = txByteAt s i := by simp [txByteAt, h1, h2]

theorem rxBytes_congr {s t : State} (h1 : t.rxbuf = s.rxbuf) (h2 : t.rxDraw = s.rxDraw) (i n : Nat) :
    rxBytes t i n = rxBytes s i n := by
  simp only [rxBytes]; exact List.map_congr_left fun j _ => rxByteAt_congr h1 h2 j

theorem txBytes_congr {s t : State} (h1 : t.txbuf = s.txbuf) (h2 : t.txDraw = s.txDraw) (i n : Nat) :
    txBytes t i n = txBytes s i n := by
  simp only [txBytes]; exact List.map_congr_left fun j _ => txByteAt_congr h1 h2 j

theorem rxByteAt_rxStore_same (i : Nat) (b : Byte) (s : State) : rxByteAt (rxStore i b s) i = b := by
  simp [rxByteAt, memLookup_memInsert_same]

theorem rxByteAt_rxStore_ne {i j : Nat} (b : Byte) (s : State) (h : j ≠ i) :
    rxByteAt (rxStore i b s) j = rxByteAt s j := by
  simp [rxByteAt, memLookup_memInsert_ne _ _ h]

theorem txByteAt_txStore_same (i : Nat) (b : Byte) (s : State) : txByteAt (txStore i b s) i = b := by
  simp [txByteAt, memLookup_memInsert_same]

theorem txByteAt_txStore_ne {i j : Nat} (b : Byte) (s : State) (h : j ≠ i) :
    txByteAt (txStore i b s) j = txByteAt s j := by
  simp [txByteAt, memLookup_memInsert_ne _ _ h]

@[simp] theorem rxBytes_length (s : State) (i n : Nat) : (rxBytes s i n).length = n := by simp [rxBytes]

@[simp] theorem txBytes_length (s : State) (i n : Nat) : (txBytes s i n).length = n := by simp [txBytes]

/-- Storing a byte at index `n` extends the first `n` bytes by it. -/
theorem rxBytes_rxStore_succ (n : Nat) (b : Byte) (s : State) :
    rxBytes (rxStore n b s) 0 (n + 1) = rxBytes s 0 n ++ [b] := by
  simp only [rxBytes, ← List.range_eq_range', List.range_succ, List.map_append, List.map_cons, List.map_nil,
    rxByteAt_rxStore_same]
  congr 1
  exact List.map_congr_left fun j hj => rxByteAt_rxStore_ne b s (by simp at hj; omega)

theorem rxBytes_take {s : State} {m n : Nat} (h : m ≤ n) : (rxBytes s 0 n).take m = rxBytes s 0 m := by
  simp [rxBytes, ← List.range_eq_range', ← List.map_take, List.take_range, Nat.min_eq_left h]

/-! ### History -/

theorem txBytesOf_append (es fs : List Event) : txBytesOf (es ++ fs) = txBytesOf es ++ txBytesOf fs := by
  induction es with
  | nil => rfl
  | cons e es ih => cases e <;> simp [txBytesOf, ih]

theorem emitTx_events (bs : List Byte) (s : State) :
    (emitTx bs s).events = s.events ++ (if bs = [] then [] else [.tx bs]) := by
  unfold emitTx; split <;> simp [*]

theorem emitTx_txStream (bs : List Byte) (s : State) : (emitTx bs s).txStream = s.txStream ++ bs := by
  rw [State.txStream, State.txStream, emitTx_events, txBytesOf_append]
  split <;> simp [txBytesOf, *]

theorem dumpAtEnd_events (r : Word) (s : State) :
    (dumpAtEnd r s).events =
      s.events ++ (if s.debugEn = true ∧ 0 < r.toInt then [.dump (rxBytes s 0 r.toNat) r.toNat] else []) := by
  unfold dumpAtEnd; split <;> simp [*]

theorem forgetAtEnd_of_pos {r : Word} (h : 0 < r.toInt) (s : State) : forgetAtEnd r s = s := by
  simp [forgetAtEnd, Int.not_le.mpr h]

theorem forgetAtEnd_of_nonpos {r : Word} (h : r.toInt ≤ 0) (s : State) : forgetAtEnd r s = rxClear s := by
  simp [forgetAtEnd, h]

theorem dumpAtEnd_of_nonpos {r : Word} (h : r.toInt ≤ 0) (s : State) : dumpAtEnd r s = s := by
  simp [dumpAtEnd, Int.not_lt.mpr h]

/-! ### Ends and starts -/

/-- A result that is a 16-bit count, as a number. -/
theorem toNat_zeroExtend16 (n : Half) : (0#16 ++ n : Word).toNat = n.toNat := by
  have h := BitVec.toNat_append 0#16 n
  simpa using h

/-- A result that is a 16-bit count, as an integer. -/
theorem toInt_zeroExtend16 (n : Half) : (0#16 ++ n : Word).toInt = n.toNat := by
  rw [BitVec.toInt_eq_toNat_cond, toNat_zeroExtend16, if_pos (by have := n.isLt; omega)]

/-- A read that ends in FR ends the operation. -/
theorem frEnd_of_fr {r : Word} {c : Cause} {s : State} (h : s.seq = .fr) :
    frEnd r c s = endOp .fr r c (forgetAtEnd r (dumpAtEnd r s)) := by
  simp [frEnd, frHandOver, h]

/-- A read that ends in HS_FR hands its result to the handshake. -/
theorem frEnd_of_hsFr {r : Word} {c : Cause} {s : State} (h : s.seq = .hsFr) :
    frEnd r c s = hsAfterRead r c (forgetAtEnd r (dumpAtEnd r s)) := by
  simp [frEnd, frHandOver, h]

/-- What a handshake does with a read's result. -/
theorem hsAfterRead_cases (r : Word) (c : Cause) (s : State) :
    (r.toInt ≤ 0 ∧ hsAfterRead r c s = endOp .hs r c s) ∨
    (0 < r.toInt ∧ isBootloaderReply s r.toNat = true ∧ hsAfterRead r c s = endOp .hs r .ok s) ∨
    (0 < r.toInt ∧ isBootloaderReply s r.toNat = false ∧ limitReached s = true ∧
      hsAfterRead r c s = endOp .hs 0 .limit s) ∨
    (0 < r.toInt ∧ isBootloaderReply s r.toNat = false ∧ limitReached s = false ∧
      hsAfterRead r c s = enterDelay s) := by
  unfold hsAfterRead
  split
  · exact .inl ⟨by assumption, rfl⟩
  · have hr : 0 < r.toInt := by omega
    split
    · exact .inr (.inl ⟨hr, by assumption, rfl⟩)
    · split
      · exact .inr (.inr (.inl ⟨hr, by simp_all, by assumption, rfl⟩))
      · exact .inr (.inr (.inr ⟨hr, by simp_all, by simp_all, rfl⟩))

theorem waEnd_of_wa {r : Word} {c : Cause} {s : State} (h : s.seq = .wa) : waEnd r c s = endOp .wa r c s := by
  simp [waEnd, h]

theorem waEnd_of_hsWa {r : Word} {c : Cause} {s : State} (h : s.seq = .hsWa) : waEnd r c s = hsAfterWrite r c s := by
  simp [waEnd, h]

/-- An iteration flushes, counts itself and offers the eight bytes of ROM_CMD. -/
theorem beginIteration_eq (s : State) :
    beginIteration s = waOpen 8 .hsWa (countIteration (emit .flush s)) := rfl

theorem beginFr_of_pos {n : Half} (h : n ≠ 0) (mode : Seq) (s : State) :
    beginFr n mode s = frOpen n mode s := by
  simp [beginFr]; intro h'; exact absurd h' h

theorem beginFr_zero (mode : Seq) (s : State) :
    beginFr 0 mode s = frEnd 0 .capacity (frOpen 0 mode s) := rfl

theorem beginWa_of_pos {n : Half} (h : n ≠ 0) (mode : Seq) (s : State) :
    beginWa n mode s = waOpen n mode s := by
  simp [beginWa]; intro h'; exact absurd h' h

theorem beginWa_zero (mode : Seq) (s : State) :
    beginWa 0 mode s = waEnd 0 .ok (waOpen 0 mode s) := rfl

/-- What a legal start command does. -/
theorem startOperation_cases (inRange : Bool) (start : State → State) (s : State) :
    (s.seq ≠ .idle ∧ startOperation inRange start s = raiseFault .cmdBusy s) ∨
    (s.seq = .idle ∧ inRange = false ∧ startOperation inRange start s = raiseFault .argRange s) ∨
    (s.seq = .idle ∧ inRange = true ∧ startOperation inRange start s = start (clearDone s)) := by
  unfold startOperation
  split
  · exact .inl ⟨by assumption, rfl⟩
  · have h : s.seq = .idle := by simpa using ‹¬ s.seq ≠ .idle›
    split
    · exact .inr (.inl ⟨h, by assumption, rfl⟩)
    · exact .inr (.inr ⟨h, by simp_all, rfl⟩)

/-- The decoder and the host bus read the same fields of a command word. -/
theorem decodeCmd_eq (w : Word) : decodeCmd w =
    if cmdIllegal w then .error .illegalCommand
    else if cmdOp w = 4 then .ok .cancel
    else if cmdOp w = 1 then .ok .hsStart
    else if cmdOp w = 2 then .ok (.frStart (cmdArg w))
    else .ok (.waStart (cmdArg w)) := by
  unfold decodeCmd cmdIllegal cmdOp cmdRsv cmdArg
  generalize w.extractLsb' 28 4 = op, w.extractLsb' 16 12 = rsv, w.extractLsb' 0 16 = arg
  have h : op.toNat < 16 := op.isLt
  simp only [← BitVec.toNat_inj (x := op), BitVec.toNat_ofNat]
  generalize op.toNat = n at h
  by_cases hr : rsv = 0#12 <;> by_cases ha : arg = 0#16 <;> interval_cases n <;> simp [hr, ha]

/-- What a word written to CMD does, with the command it spells. -/
theorem writeCmd_cases (w : Word) (s : State) :
    (cmdIllegal w = true ∧ writeCmd w s = raiseFault .illegalCmd s) ∨
    (decodeCmd w = .ok .cancel ∧ writeCmd w s = commandCancel s) ∨
    (decodeCmd w = .ok .hsStart ∧ writeCmd w s = commandHsStart s) ∨
    (decodeCmd w = .ok (.frStart (cmdArg w)) ∧ writeCmd w s = commandFrStart (cmdArg w) s) ∨
    (decodeCmd w = .ok (.waStart (cmdArg w)) ∧ writeCmd w s = commandWaStart (cmdArg w) s) := by
  unfold writeCmd
  rw [decodeCmd_eq]
  split
  · simpa using ‹_›
  · split
    · simp
    · split
      · simp
      · split <;> simp

/-! ### The per-byte step -/

theorem awaitsRx_iff (s : State) : s.awaitsRx = true ↔ s.seq = .fr ∨ s.seq = .hsFr := by simp [State.awaitsRx]

theorem awaitsTx_iff (s : State) : s.awaitsTx = true ↔ s.seq = .wa ∨ s.seq = .hsWa := by simp [State.awaitsTx]

theorem awaitsTimer_iff (s : State) : s.awaitsTimer = true ↔ s.seq = .hsDelay := by simp [State.awaitsTimer]

/-- Everything a received byte can do. -/
theorem rxReceive_next {b : Byte} {s t : State} (h : rxReceive b s = .next t) :
    s.awaitsRx = true ∧
      ((b ≠ Config.sync ∧ s.frRes = 0#16 ∧ t = frEnd 0 .syncErr s) ∨
       (b = Config.sync ∧ 0 < s.cfg.rxBufCap ∧ t = frContinue (frCounted b (frRestart s))) ∨
       (b ≠ Config.sync ∧ s.frRes ≠ 0#16 ∧ s.frRes.toNat < s.cfg.rxBufCap ∧ t = frContinue (frCounted b s))) := by
  unfold rxReceive at h
  split at h
  · refine ⟨by assumption, ?_⟩
    split at h
    · subst b
      unfold frConsume at h
      split at h
      · exact .inr (.inl ⟨rfl, by simpa using ‹_›, by cases h; rfl⟩)
      · cases h
    · split at h
      · exact .inl ⟨by assumption, by assumption, by cases h; rfl⟩
      · unfold frConsume at h
        split at h
        · exact .inr (.inr ⟨by assumption, by assumption, by assumption, by cases h; rfl⟩)
        · cases h
  · cases h

/-- The tests after the store. -/
theorem frContinue_cases (s : State) :
    (frComplete s = true ∧ frContinue s = frEnd (0#16 ++ s.frRes) .ok s) ∨
    (frComplete s = false ∧ s.frCnt = 0#16 ∧ frContinue s = frEnd (0#16 ++ s.frRes) .capacity s) ∨
    (frComplete s = false ∧ s.frCnt ≠ 0#16 ∧ frContinue s = s) := by
  unfold frContinue
  split
  · exact .inl ⟨by assumption, rfl⟩
  · split
    · exact .inr (.inl ⟨by simp_all, by assumption, rfl⟩)
    · exact .inr (.inr ⟨by simp_all, by assumption, rfl⟩)

/-- What decoding a counted byte does to the registers. -/
theorem frDecode_cases (b : Byte) (s : State) :
    (b = Config.esc ∧ 1 < s.frRes.toNat ∧ frDecode b s = frMarker s) ∨
    (¬ (b = Config.esc ∧ 1 < s.frRes.toNat) ∧ s.frHaveLen = true ∧ frDecode b s = frClearFlag s) ∨
    (¬ (b = Config.esc ∧ 1 < s.frRes.toNat) ∧ s.frHaveLen = false ∧
      frDecode b s = frAccumulate (logicalValue s.frEscFlag b) (frClearFlag s)) := by
  unfold frDecode
  split
  · exact .inl ⟨‹_ ∧ _›.1, ‹_ ∧ _›.2, rfl⟩
  · split
    · exact .inr (.inl ⟨by assumption, by assumption, rfl⟩)
    · exact .inr (.inr ⟨by assumption, by simp_all, rfl⟩)

end Sys2Proof.Machine
end

