-- ==== Sys2Proof/Laws/Frames.lean ====
section
/-! SUPPORT. What the shared procedures leave unchanged: one lemma per procedure and field it does not touch. -/

namespace Sys2Proof.Machine

/-! ### hsAfterRead -/

@[simp] theorem hsAfterRead_fault (r : Word) (c : Cause) (s : State) : (hsAfterRead r c s).fault = s.fault := by unfold hsAfterRead; split <;> [rfl; (split <;> [rfl; (split <;> rfl)])]
@[simp] theorem hsAfterRead_faultCause (r : Word) (c : Cause) (s : State) : (hsAfterRead r c s).faultCause = s.faultCause := by unfold hsAfterRead; split <;> [rfl; (split <;> [rfl; (split <;> rfl)])]
@[simp] theorem hsAfterRead_debugEn (r : Word) (c : Cause) (s : State) : (hsAfterRead r c s).debugEn = s.debugEn := by unfold hsAfterRead; split <;> [rfl; (split <;> [rfl; (split <;> rfl)])]
@[simp] theorem hsAfterRead_irqEn (r : Word) (c : Cause) (s : State) : (hsAfterRead r c s).irqEn = s.irqEn := by unfold hsAfterRead; split <;> [rfl; (split <;> [rfl; (split <;> rfl)])]
@[simp] theorem hsAfterRead_hsLimit (r : Word) (c : Cause) (s : State) : (hsAfterRead r c s).hsLimit = s.hsLimit := by unfold hsAfterRead; split <;> [rfl; (split <;> [rfl; (split <;> rfl)])]
@[simp] theorem hsAfterRead_hsAttempts (r : Word) (c : Cause) (s : State) : (hsAfterRead r c s).hsAttempts = s.hsAttempts := by unfold hsAfterRead; split <;> [rfl; (split <;> [rfl; (split <;> rfl)])]
@[simp] theorem hsAfterRead_frRes (r : Word) (c : Cause) (s : State) : (hsAfterRead r c s).frRes = s.frRes := by unfold hsAfterRead; split <;> [rfl; (split <;> [rfl; (split <;> rfl)])]
@[simp] theorem hsAfterRead_frEscCnt (r : Word) (c : Cause) (s : State) : (hsAfterRead r c s).frEscCnt = s.frEscCnt := by unfold hsAfterRead; split <;> [rfl; (split <;> [rfl; (split <;> rfl)])]
@[simp] theorem hsAfterRead_frLen (r : Word) (c : Cause) (s : State) : (hsAfterRead r c s).frLen = s.frLen := by unfold hsAfterRead; split <;> [rfl; (split <;> [rfl; (split <;> rfl)])]
@[simp] theorem hsAfterRead_frHaveLen (r : Word) (c : Cause) (s : State) : (hsAfterRead r c s).frHaveLen = s.frHaveLen := by unfold hsAfterRead; split <;> [rfl; (split <;> [rfl; (split <;> rfl)])]
@[simp] theorem hsAfterRead_frEscFlag (r : Word) (c : Cause) (s : State) : (hsAfterRead r c s).frEscFlag = s.frEscFlag := by unfold hsAfterRead; split <;> [rfl; (split <;> [rfl; (split <;> rfl)])]
@[simp] theorem hsAfterRead_frCnt (r : Word) (c : Cause) (s : State) : (hsAfterRead r c s).frCnt = s.frCnt := by unfold hsAfterRead; split <;> [rfl; (split <;> [rfl; (split <;> rfl)])]
@[simp] theorem hsAfterRead_frBufsize (r : Word) (c : Cause) (s : State) : (hsAfterRead r c s).frBufsize = s.frBufsize := by unfold hsAfterRead; split <;> [rfl; (split <;> [rfl; (split <;> rfl)])]
@[simp] theorem hsAfterRead_waOff (r : Word) (c : Cause) (s : State) : (hsAfterRead r c s).waOff = s.waOff := by unfold hsAfterRead; split <;> [rfl; (split <;> [rfl; (split <;> rfl)])]
@[simp] theorem hsAfterRead_waLen (r : Word) (c : Cause) (s : State) : (hsAfterRead r c s).waLen = s.waLen := by unfold hsAfterRead; split <;> [rfl; (split <;> [rfl; (split <;> rfl)])]
@[simp] theorem hsAfterRead_rxbuf (r : Word) (c : Cause) (s : State) : (hsAfterRead r c s).rxbuf = s.rxbuf := by unfold hsAfterRead; split <;> [rfl; (split <;> [rfl; (split <;> rfl)])]
@[simp] theorem hsAfterRead_txbuf (r : Word) (c : Cause) (s : State) : (hsAfterRead r c s).txbuf = s.txbuf := by unfold hsAfterRead; split <;> [rfl; (split <;> [rfl; (split <;> rfl)])]
@[simp] theorem hsAfterRead_cfg (r : Word) (c : Cause) (s : State) : (hsAfterRead r c s).cfg = s.cfg := by unfold hsAfterRead; split <;> [rfl; (split <;> [rfl; (split <;> rfl)])]
@[simp] theorem hsAfterRead_rxDraw (r : Word) (c : Cause) (s : State) : (hsAfterRead r c s).rxDraw = s.rxDraw := by unfold hsAfterRead; split <;> [rfl; (split <;> [rfl; (split <;> rfl)])]
@[simp] theorem hsAfterRead_txDraw (r : Word) (c : Cause) (s : State) : (hsAfterRead r c s).txDraw = s.txDraw := by unfold hsAfterRead; split <;> [rfl; (split <;> [rfl; (split <;> rfl)])]
@[simp] theorem hsAfterRead_answer (r : Word) (c : Cause) (s : State) : (hsAfterRead r c s).answer = s.answer := by unfold hsAfterRead; split <;> [rfl; (split <;> [rfl; (split <;> rfl)])]
@[simp] theorem hsAfterRead_pending (r : Word) (c : Cause) (s : State) : (hsAfterRead r c s).pending = s.pending := by unfold hsAfterRead; split <;> [rfl; (split <;> [rfl; (split <;> rfl)])]

/-! ### frHandOver -/

@[simp] theorem frHandOver_fault (r : Word) (c : Cause) (s : State) : (frHandOver r c s).fault = s.fault := by unfold frHandOver; split <;> simp
@[simp] theorem frHandOver_faultCause (r : Word) (c : Cause) (s : State) : (frHandOver r c s).faultCause = s.faultCause := by unfold frHandOver; split <;> simp
@[simp] theorem frHandOver_debugEn (r : Word) (c : Cause) (s : State) : (frHandOver r c s).debugEn = s.debugEn := by unfold frHandOver; split <;> simp
@[simp] theorem frHandOver_irqEn (r : Word) (c : Cause) (s : State) : (frHandOver r c s).irqEn = s.irqEn := by unfold frHandOver; split <;> simp
@[simp] theorem frHandOver_hsLimit (r : Word) (c : Cause) (s : State) : (frHandOver r c s).hsLimit = s.hsLimit := by unfold frHandOver; split <;> simp
@[simp] theorem frHandOver_hsAttempts (r : Word) (c : Cause) (s : State) : (frHandOver r c s).hsAttempts = s.hsAttempts := by unfold frHandOver; split <;> simp
@[simp] theorem frHandOver_frRes (r : Word) (c : Cause) (s : State) : (frHandOver r c s).frRes = s.frRes := by unfold frHandOver; split <;> simp
@[simp] theorem frHandOver_frEscCnt (r : Word) (c : Cause) (s : State) : (frHandOver r c s).frEscCnt = s.frEscCnt := by unfold frHandOver; split <;> simp
@[simp] theorem frHandOver_frLen (r : Word) (c : Cause) (s : State) : (frHandOver r c s).frLen = s.frLen := by unfold frHandOver; split <;> simp
@[simp] theorem frHandOver_frHaveLen (r : Word) (c : Cause) (s : State) : (frHandOver r c s).frHaveLen = s.frHaveLen := by unfold frHandOver; split <;> simp
@[simp] theorem frHandOver_frEscFlag (r : Word) (c : Cause) (s : State) : (frHandOver r c s).frEscFlag = s.frEscFlag := by unfold frHandOver; split <;> simp
@[simp] theorem frHandOver_frCnt (r : Word) (c : Cause) (s : State) : (frHandOver r c s).frCnt = s.frCnt := by unfold frHandOver; split <;> simp
@[simp] theorem frHandOver_frBufsize (r : Word) (c : Cause) (s : State) : (frHandOver r c s).frBufsize = s.frBufsize := by unfold frHandOver; split <;> simp
@[simp] theorem frHandOver_waOff (r : Word) (c : Cause) (s : State) : (frHandOver r c s).waOff = s.waOff := by unfold frHandOver; split <;> simp
@[simp] theorem frHandOver_waLen (r : Word) (c : Cause) (s : State) : (frHandOver r c s).waLen = s.waLen := by unfold frHandOver; split <;> simp
@[simp] theorem frHandOver_rxbuf (r : Word) (c : Cause) (s : State) : (frHandOver r c s).rxbuf = s.rxbuf := by unfold frHandOver; split <;> simp
@[simp] theorem frHandOver_txbuf (r : Word) (c : Cause) (s : State) : (frHandOver r c s).txbuf = s.txbuf := by unfold frHandOver; split <;> simp
@[simp] theorem frHandOver_cfg (r : Word) (c : Cause) (s : State) : (frHandOver r c s).cfg = s.cfg := by unfold frHandOver; split <;> simp
@[simp] theorem frHandOver_rxDraw (r : Word) (c : Cause) (s : State) : (frHandOver r c s).rxDraw = s.rxDraw := by unfold frHandOver; split <;> simp
@[simp] theorem frHandOver_txDraw (r : Word) (c : Cause) (s : State) : (frHandOver r c s).txDraw = s.txDraw := by unfold frHandOver; split <;> simp
@[simp] theorem frHandOver_answer (r : Word) (c : Cause) (s : State) : (frHandOver r c s).answer = s.answer := by unfold frHandOver; split <;> simp
@[simp] theorem frHandOver_pending (r : Word) (c : Cause) (s : State) : (frHandOver r c s).pending = s.pending := by unfold frHandOver; split <;> simp

/-! ### frEnd -/

@[simp] theorem frEnd_fault (r : Word) (c : Cause) (s : State) : (frEnd r c s).fault = s.fault := by simp [frEnd]
@[simp] theorem frEnd_faultCause (r : Word) (c : Cause) (s : State) : (frEnd r c s).faultCause = s.faultCause := by simp [frEnd]
@[simp] theorem frEnd_debugEn (r : Word) (c : Cause) (s : State) : (frEnd r c s).debugEn = s.debugEn := by simp [frEnd]
@[simp] theorem frEnd_irqEn (r : Word) (c : Cause) (s : State) : (frEnd r c s).irqEn = s.irqEn := by simp [frEnd]
@[simp] theorem frEnd_hsLimit (r : Word) (c : Cause) (s : State) : (frEnd r c s).hsLimit = s.hsLimit := by simp [frEnd]
@[simp] theorem frEnd_hsAttempts (r : Word) (c : Cause) (s : State) : (frEnd r c s).hsAttempts = s.hsAttempts := by simp [frEnd]
@[simp] theorem frEnd_frRes (r : Word) (c : Cause) (s : State) : (frEnd r c s).frRes = s.frRes := by simp [frEnd]
@[simp] theorem frEnd_frEscCnt (r : Word) (c : Cause) (s : State) : (frEnd r c s).frEscCnt = s.frEscCnt := by simp [frEnd]
@[simp] theorem frEnd_frLen (r : Word) (c : Cause) (s : State) : (frEnd r c s).frLen = s.frLen := by simp [frEnd]
@[simp] theorem frEnd_frHaveLen (r : Word) (c : Cause) (s : State) : (frEnd r c s).frHaveLen = s.frHaveLen := by simp [frEnd]
@[simp] theorem frEnd_frEscFlag (r : Word) (c : Cause) (s : State) : (frEnd r c s).frEscFlag = s.frEscFlag := by simp [frEnd]
@[simp] theorem frEnd_frCnt (r : Word) (c : Cause) (s : State) : (frEnd r c s).frCnt = s.frCnt := by simp [frEnd]
@[simp] theorem frEnd_frBufsize (r : Word) (c : Cause) (s : State) : (frEnd r c s).frBufsize = s.frBufsize := by simp [frEnd]
@[simp] theorem frEnd_waOff (r : Word) (c : Cause) (s : State) : (frEnd r c s).waOff = s.waOff := by simp [frEnd]
@[simp] theorem frEnd_waLen (r : Word) (c : Cause) (s : State) : (frEnd r c s).waLen = s.waLen := by simp [frEnd]
@[simp] theorem frEnd_txbuf (r : Word) (c : Cause) (s : State) : (frEnd r c s).txbuf = s.txbuf := by simp [frEnd]
@[simp] theorem frEnd_cfg (r : Word) (c : Cause) (s : State) : (frEnd r c s).cfg = s.cfg := by simp [frEnd]
@[simp] theorem frEnd_txDraw (r : Word) (c : Cause) (s : State) : (frEnd r c s).txDraw = s.txDraw := by simp [frEnd]
@[simp] theorem frEnd_answer (r : Word) (c : Cause) (s : State) : (frEnd r c s).answer = s.answer := by simp [frEnd]
@[simp] theorem frEnd_pending (r : Word) (c : Cause) (s : State) : (frEnd r c s).pending = s.pending := by simp [frEnd]

/-! ### beginFr -/

@[simp] theorem beginFr_fault (n : Half) (m : Seq) (s : State) : (beginFr n m s).fault = s.fault := by unfold beginFr; split <;> simp
@[simp] theorem beginFr_faultCause (n : Half) (m : Seq) (s : State) : (beginFr n m s).faultCause = s.faultCause := by unfold beginFr; split <;> simp
@[simp] theorem beginFr_debugEn (n : Half) (m : Seq) (s : State) : (beginFr n m s).debugEn = s.debugEn := by unfold beginFr; split <;> simp
@[simp] theorem beginFr_irqEn (n : Half) (m : Seq) (s : State) : (beginFr n m s).irqEn = s.irqEn := by unfold beginFr; split <;> simp
@[simp] theorem beginFr_hsLimit (n : Half) (m : Seq) (s : State) : (beginFr n m s).hsLimit = s.hsLimit := by unfold beginFr; split <;> simp
@[simp] theorem beginFr_hsAttempts (n : Half) (m : Seq) (s : State) : (beginFr n m s).hsAttempts = s.hsAttempts := by unfold beginFr; split <;> simp
@[simp] theorem beginFr_waOff (n : Half) (m : Seq) (s : State) : (beginFr n m s).waOff = s.waOff := by unfold beginFr; split <;> simp
@[simp] theorem beginFr_waLen (n : Half) (m : Seq) (s : State) : (beginFr n m s).waLen = s.waLen := by unfold beginFr; split <;> simp
@[simp] theorem beginFr_txbuf (n : Half) (m : Seq) (s : State) : (beginFr n m s).txbuf = s.txbuf := by unfold beginFr; split <;> simp
@[simp] theorem beginFr_cfg (n : Half) (m : Seq) (s : State) : (beginFr n m s).cfg = s.cfg := by unfold beginFr; split <;> simp
@[simp] theorem beginFr_txDraw (n : Half) (m : Seq) (s : State) : (beginFr n m s).txDraw = s.txDraw := by unfold beginFr; split <;> simp
@[simp] theorem beginFr_answer (n : Half) (m : Seq) (s : State) : (beginFr n m s).answer = s.answer := by unfold beginFr; split <;> simp
@[simp] theorem beginFr_pending (n : Half) (m : Seq) (s : State) : (beginFr n m s).pending = s.pending := by unfold beginFr; split <;> simp

/-! ### hsAfterWrite -/

@[simp] theorem hsAfterWrite_fault (r : Word) (c : Cause) (s : State) : (hsAfterWrite r c s).fault = s.fault := by unfold hsAfterWrite; split <;> simp
@[simp] theorem hsAfterWrite_faultCause (r : Word) (c : Cause) (s : State) : (hsAfterWrite r c s).faultCause = s.faultCause := by unfold hsAfterWrite; split <;> simp
@[simp] theorem hsAfterWrite_debugEn (r : Word) (c : Cause) (s : State) : (hsAfterWrite r c s).debugEn = s.debugEn := by unfold hsAfterWrite; split <;> simp
@[simp] theorem hsAfterWrite_irqEn (r : Word) (c : Cause) (s : State) : (hsAfterWrite r c s).irqEn = s.irqEn := by unfold hsAfterWrite; split <;> simp
@[simp] theorem hsAfterWrite_hsLimit (r : Word) (c : Cause) (s : State) : (hsAfterWrite r c s).hsLimit = s.hsLimit := by unfold hsAfterWrite; split <;> simp
@[simp] theorem hsAfterWrite_hsAttempts (r : Word) (c : Cause) (s : State) : (hsAfterWrite r c s).hsAttempts = s.hsAttempts := by unfold hsAfterWrite; split <;> simp
@[simp] theorem hsAfterWrite_waOff (r : Word) (c : Cause) (s : State) : (hsAfterWrite r c s).waOff = s.waOff := by unfold hsAfterWrite; split <;> simp
@[simp] theorem hsAfterWrite_waLen (r : Word) (c : Cause) (s : State) : (hsAfterWrite r c s).waLen = s.waLen := by unfold hsAfterWrite; split <;> simp
@[simp] theorem hsAfterWrite_txbuf (r : Word) (c : Cause) (s : State) : (hsAfterWrite r c s).txbuf = s.txbuf := by unfold hsAfterWrite; split <;> simp
@[simp] theorem hsAfterWrite_cfg (r : Word) (c : Cause) (s : State) : (hsAfterWrite r c s).cfg = s.cfg := by unfold hsAfterWrite; split <;> simp
@[simp] theorem hsAfterWrite_txDraw (r : Word) (c : Cause) (s : State) : (hsAfterWrite r c s).txDraw = s.txDraw := by unfold hsAfterWrite; split <;> simp
@[simp] theorem hsAfterWrite_answer (r : Word) (c : Cause) (s : State) : (hsAfterWrite r c s).answer = s.answer := by unfold hsAfterWrite; split <;> simp
@[simp] theorem hsAfterWrite_pending (r : Word) (c : Cause) (s : State) : (hsAfterWrite r c s).pending = s.pending := by unfold hsAfterWrite; split <;> simp

/-! ### waEnd -/

@[simp] theorem waEnd_fault (r : Word) (c : Cause) (s : State) : (waEnd r c s).fault = s.fault := by unfold waEnd; split <;> simp
@[simp] theorem waEnd_faultCause (r : Word) (c : Cause) (s : State) : (waEnd r c s).faultCause = s.faultCause := by unfold waEnd; split <;> simp
@[simp] theorem waEnd_debugEn (r : Word) (c : Cause) (s : State) : (waEnd r c s).debugEn = s.debugEn := by unfold waEnd; split <;> simp
@[simp] theorem waEnd_irqEn (r : Word) (c : Cause) (s : State) : (waEnd r c s).irqEn = s.irqEn := by unfold waEnd; split <;> simp
@[simp] theorem waEnd_hsLimit (r : Word) (c : Cause) (s : State) : (waEnd r c s).hsLimit = s.hsLimit := by unfold waEnd; split <;> simp
@[simp] theorem waEnd_hsAttempts (r : Word) (c : Cause) (s : State) : (waEnd r c s).hsAttempts = s.hsAttempts := by unfold waEnd; split <;> simp
@[simp] theorem waEnd_waOff (r : Word) (c : Cause) (s : State) : (waEnd r c s).waOff = s.waOff := by unfold waEnd; split <;> simp
@[simp] theorem waEnd_waLen (r : Word) (c : Cause) (s : State) : (waEnd r c s).waLen = s.waLen := by unfold waEnd; split <;> simp
@[simp] theorem waEnd_txbuf (r : Word) (c : Cause) (s : State) : (waEnd r c s).txbuf = s.txbuf := by unfold waEnd; split <;> simp
@[simp] theorem waEnd_cfg (r : Word) (c : Cause) (s : State) : (waEnd r c s).cfg = s.cfg := by unfold waEnd; split <;> simp
@[simp] theorem waEnd_txDraw (r : Word) (c : Cause) (s : State) : (waEnd r c s).txDraw = s.txDraw := by unfold waEnd; split <;> simp
@[simp] theorem waEnd_answer (r : Word) (c : Cause) (s : State) : (waEnd r c s).answer = s.answer := by unfold waEnd; split <;> simp
@[simp] theorem waEnd_pending (r : Word) (c : Cause) (s : State) : (waEnd r c s).pending = s.pending := by unfold waEnd; split <;> simp

/-! ### beginWa -/

@[simp] theorem beginWa_fault (n : Half) (m : Seq) (s : State) : (beginWa n m s).fault = s.fault := by unfold beginWa; split <;> simp
@[simp] theorem beginWa_faultCause (n : Half) (m : Seq) (s : State) : (beginWa n m s).faultCause = s.faultCause := by unfold beginWa; split <;> simp
@[simp] theorem beginWa_debugEn (n : Half) (m : Seq) (s : State) : (beginWa n m s).debugEn = s.debugEn := by unfold beginWa; split <;> simp
@[simp] theorem beginWa_irqEn (n : Half) (m : Seq) (s : State) : (beginWa n m s).irqEn = s.irqEn := by unfold beginWa; split <;> simp
@[simp] theorem beginWa_hsLimit (n : Half) (m : Seq) (s : State) : (beginWa n m s).hsLimit = s.hsLimit := by unfold beginWa; split <;> simp
@[simp] theorem beginWa_hsAttempts (n : Half) (m : Seq) (s : State) : (beginWa n m s).hsAttempts = s.hsAttempts := by unfold beginWa; split <;> simp
@[simp] theorem beginWa_txbuf (n : Half) (m : Seq) (s : State) : (beginWa n m s).txbuf = s.txbuf := by unfold beginWa; split <;> simp
@[simp] theorem beginWa_cfg (n : Half) (m : Seq) (s : State) : (beginWa n m s).cfg = s.cfg := by unfold beginWa; split <;> simp
@[simp] theorem beginWa_txDraw (n : Half) (m : Seq) (s : State) : (beginWa n m s).txDraw = s.txDraw := by unfold beginWa; split <;> simp
@[simp] theorem beginWa_answer (n : Half) (m : Seq) (s : State) : (beginWa n m s).answer = s.answer := by unfold beginWa; split <;> simp
@[simp] theorem beginWa_pending (n : Half) (m : Seq) (s : State) : (beginWa n m s).pending = s.pending := by unfold beginWa; split <;> simp

/-! ### waAccept -/

@[simp] theorem waAccept_fault (k : Nat) (s : State) : (waAccept k s).fault = s.fault := by unfold waAccept; split <;> simp
@[simp] theorem waAccept_faultCause (k : Nat) (s : State) : (waAccept k s).faultCause = s.faultCause := by unfold waAccept; split <;> simp
@[simp] theorem waAccept_debugEn (k : Nat) (s : State) : (waAccept k s).debugEn = s.debugEn := by unfold waAccept; split <;> simp
@[simp] theorem waAccept_irqEn (k : Nat) (s : State) : (waAccept k s).irqEn = s.irqEn := by unfold waAccept; split <;> simp
@[simp] theorem waAccept_hsLimit (k : Nat) (s : State) : (waAccept k s).hsLimit = s.hsLimit := by unfold waAccept; split <;> simp
@[simp] theorem waAccept_hsAttempts (k : Nat) (s : State) : (waAccept k s).hsAttempts = s.hsAttempts := by unfold waAccept; split <;> simp
@[simp] theorem waAccept_waLen (k : Nat) (s : State) : (waAccept k s).waLen = s.waLen := by unfold waAccept; split <;> simp
@[simp] theorem waAccept_txbuf (k : Nat) (s : State) : (waAccept k s).txbuf = s.txbuf := by unfold waAccept; split <;> simp
@[simp] theorem waAccept_cfg (k : Nat) (s : State) : (waAccept k s).cfg = s.cfg := by unfold waAccept; split <;> simp
@[simp] theorem waAccept_txDraw (k : Nat) (s : State) : (waAccept k s).txDraw = s.txDraw := by unfold waAccept; split <;> simp
@[simp] theorem waAccept_answer (k : Nat) (s : State) : (waAccept k s).answer = s.answer := by unfold waAccept; split <;> simp
@[simp] theorem waAccept_pending (k : Nat) (s : State) : (waAccept k s).pending = s.pending := by unfold waAccept; split <;> simp

/-! ### frDecode -/

@[simp] theorem frDecode_seq (b : Byte) (s : State) : (frDecode b s).seq = s.seq := by unfold frDecode; split <;> [simp; (split <;> simp)]
@[simp] theorem frDecode_done (b : Byte) (s : State) : (frDecode b s).done = s.done := by unfold frDecode; split <;> [simp; (split <;> simp)]
@[simp] theorem frDecode_fault (b : Byte) (s : State) : (frDecode b s).fault = s.fault := by unfold frDecode; split <;> [simp; (split <;> simp)]
@[simp] theorem frDecode_cancelPending (b : Byte) (s : State) : (frDecode b s).cancelPending = s.cancelPending := by unfold frDecode; split <;> [simp; (split <;> simp)]
@[simp] theorem frDecode_lastOp (b : Byte) (s : State) : (frDecode b s).lastOp = s.lastOp := by unfold frDecode; split <;> [simp; (split <;> simp)]
@[simp] theorem frDecode_cause (b : Byte) (s : State) : (frDecode b s).cause = s.cause := by unfold frDecode; split <;> [simp; (split <;> simp)]
@[simp] theorem frDecode_faultCause (b : Byte) (s : State) : (frDecode b s).faultCause = s.faultCause := by unfold frDecode; split <;> [simp; (split <;> simp)]
@[simp] theorem frDecode_result (b : Byte) (s : State) : (frDecode b s).result = s.result := by unfold frDecode; split <;> [simp; (split <;> simp)]
@[simp] theorem frDecode_debugEn (b : Byte) (s : State) : (frDecode b s).debugEn = s.debugEn := by unfold frDecode; split <;> [simp; (split <;> simp)]
@[simp] theorem frDecode_irqEn (b : Byte) (s : State) : (frDecode b s).irqEn = s.irqEn := by unfold frDecode; split <;> [simp; (split <;> simp)]
@[simp] theorem frDecode_hsLimit (b : Byte) (s : State) : (frDecode b s).hsLimit = s.hsLimit := by unfold frDecode; split <;> [simp; (split <;> simp)]
@[simp] theorem frDecode_hsAttempts (b : Byte) (s : State) : (frDecode b s).hsAttempts = s.hsAttempts := by unfold frDecode; split <;> [simp; (split <;> simp)]
@[simp] theorem frDecode_frRes (b : Byte) (s : State) : (frDecode b s).frRes = s.frRes := by unfold frDecode; split <;> [simp; (split <;> simp)]
@[simp] theorem frDecode_frCnt (b : Byte) (s : State) : (frDecode b s).frCnt = s.frCnt := by unfold frDecode; split <;> [simp; (split <;> simp)]
@[simp] theorem frDecode_frBufsize (b : Byte) (s : State) : (frDecode b s).frBufsize = s.frBufsize := by unfold frDecode; split <;> [simp; (split <;> simp)]
@[simp] theorem frDecode_waOff (b : Byte) (s : State) : (frDecode b s).waOff = s.waOff := by unfold frDecode; split <;> [simp; (split <;> simp)]
@[simp] theorem frDecode_waLen (b : Byte) (s : State) : (frDecode b s).waLen = s.waLen := by unfold frDecode; split <;> [simp; (split <;> simp)]
@[simp] theorem frDecode_rxbuf (b : Byte) (s : State) : (frDecode b s).rxbuf = s.rxbuf := by unfold frDecode; split <;> [simp; (split <;> simp)]
@[simp] theorem frDecode_txbuf (b : Byte) (s : State) : (frDecode b s).txbuf = s.txbuf := by unfold frDecode; split <;> [simp; (split <;> simp)]
@[simp] theorem frDecode_events (b : Byte) (s : State) : (frDecode b s).events = s.events := by unfold frDecode; split <;> [simp; (split <;> simp)]
@[simp] theorem frDecode_cfg (b : Byte) (s : State) : (frDecode b s).cfg = s.cfg := by unfold frDecode; split <;> [simp; (split <;> simp)]
@[simp] theorem frDecode_rxDraw (b : Byte) (s : State) : (frDecode b s).rxDraw = s.rxDraw := by unfold frDecode; split <;> [simp; (split <;> simp)]
@[simp] theorem frDecode_txDraw (b : Byte) (s : State) : (frDecode b s).txDraw = s.txDraw := by unfold frDecode; split <;> [simp; (split <;> simp)]
@[simp] theorem frDecode_answer (b : Byte) (s : State) : (frDecode b s).answer = s.answer := by unfold frDecode; split <;> [simp; (split <;> simp)]
@[simp] theorem frDecode_pending (b : Byte) (s : State) : (frDecode b s).pending = s.pending := by unfold frDecode; split <;> [simp; (split <;> simp)]

/-! ### frCounted -/

@[simp] theorem frCounted_seq (b : Byte) (s : State) : (frCounted b s).seq = s.seq := by simp [frCounted]
@[simp] theorem frCounted_done (b : Byte) (s : State) : (frCounted b s).done = s.done := by simp [frCounted]
@[simp] theorem frCounted_fault (b : Byte) (s : State) : (frCounted b s).fault = s.fault := by simp [frCounted]
@[simp] theorem frCounted_cancelPending (b : Byte) (s : State) : (frCounted b s).cancelPending = s.cancelPending := by simp [frCounted]
@[simp] theorem frCounted_lastOp (b : Byte) (s : State) : (frCounted b s).lastOp = s.lastOp := by simp [frCounted]
@[simp] theorem frCounted_cause (b : Byte) (s : State) : (frCounted b s).cause = s.cause := by simp [frCounted]
@[simp] theorem frCounted_faultCause (b : Byte) (s : State) : (frCounted b s).faultCause = s.faultCause := by simp [frCounted]
@[simp] theorem frCounted_result (b : Byte) (s : State) : (frCounted b s).result = s.result := by simp [frCounted]
@[simp] theorem frCounted_debugEn (b : Byte) (s : State) : (frCounted b s).debugEn = s.debugEn := by simp [frCounted]
@[simp] theorem frCounted_irqEn (b : Byte) (s : State) : (frCounted b s).irqEn = s.irqEn := by simp [frCounted]
@[simp] theorem frCounted_hsLimit (b : Byte) (s : State) : (frCounted b s).hsLimit = s.hsLimit := by simp [frCounted]
@[simp] theorem frCounted_hsAttempts (b : Byte) (s : State) : (frCounted b s).hsAttempts = s.hsAttempts := by simp [frCounted]
@[simp] theorem frCounted_frBufsize (b : Byte) (s : State) : (frCounted b s).frBufsize = s.frBufsize := by simp [frCounted]
@[simp] theorem frCounted_waOff (b : Byte) (s : State) : (frCounted b s).waOff = s.waOff := by simp [frCounted]
@[simp] theorem frCounted_waLen (b : Byte) (s : State) : (frCounted b s).waLen = s.waLen := by simp [frCounted]
@[simp] theorem frCounted_txbuf (b : Byte) (s : State) : (frCounted b s).txbuf = s.txbuf := by simp [frCounted]
@[simp] theorem frCounted_events (b : Byte) (s : State) : (frCounted b s).events = s.events := by simp [frCounted]
@[simp] theorem frCounted_cfg (b : Byte) (s : State) : (frCounted b s).cfg = s.cfg := by simp [frCounted]
@[simp] theorem frCounted_rxDraw (b : Byte) (s : State) : (frCounted b s).rxDraw = s.rxDraw := by simp [frCounted]
@[simp] theorem frCounted_txDraw (b : Byte) (s : State) : (frCounted b s).txDraw = s.txDraw := by simp [frCounted]
@[simp] theorem frCounted_answer (b : Byte) (s : State) : (frCounted b s).answer = s.answer := by simp [frCounted]
@[simp] theorem frCounted_pending (b : Byte) (s : State) : (frCounted b s).pending = s.pending := by simp [frCounted]

/-! ### frContinue -/

@[simp] theorem frContinue_fault (s : State) : (frContinue s).fault = s.fault := by unfold frContinue; split <;> [simp; (split <;> simp)]
@[simp] theorem frContinue_faultCause (s : State) : (frContinue s).faultCause = s.faultCause := by unfold frContinue; split <;> [simp; (split <;> simp)]
@[simp] theorem frContinue_debugEn (s : State) : (frContinue s).debugEn = s.debugEn := by unfold frContinue; split <;> [simp; (split <;> simp)]
@[simp] theorem frContinue_irqEn (s : State) : (frContinue s).irqEn = s.irqEn := by unfold frContinue; split <;> [simp; (split <;> simp)]
@[simp] theorem frContinue_hsLimit (s : State) : (frContinue s).hsLimit = s.hsLimit := by unfold frContinue; split <;> [simp; (split <;> simp)]
@[simp] theorem frContinue_hsAttempts (s : State) : (frContinue s).hsAttempts = s.hsAttempts := by unfold frContinue; split <;> [simp; (split <;> simp)]
@[simp] theorem frContinue_frRes (s : State) : (frContinue s).frRes = s.frRes := by unfold frContinue; split <;> [simp; (split <;> simp)]
@[simp] theorem frContinue_frEscCnt (s : State) : (frContinue s).frEscCnt = s.frEscCnt := by unfold frContinue; split <;> [simp; (split <;> simp)]
@[simp] theorem frContinue_frLen (s : State) : (frContinue s).frLen = s.frLen := by unfold frContinue; split <;> [simp; (split <;> simp)]
@[simp] theorem frContinue_frHaveLen (s : State) : (frContinue s).frHaveLen = s.frHaveLen := by unfold frContinue; split <;> [simp; (split <;> simp)]
@[simp] theorem frContinue_frEscFlag (s : State) : (frContinue s).frEscFlag = s.frEscFlag := by unfold frContinue; split <;> [simp; (split <;> simp)]
@[simp] theorem frContinue_frCnt (s : State) : (frContinue s).frCnt = s.frCnt := by unfold frContinue; split <;> [simp; (split <;> simp)]
@[simp] theorem frContinue_frBufsize (s : State) : (frContinue s).frBufsize = s.frBufsize := by unfold frContinue; split <;> [simp; (split <;> simp)]
@[simp] theorem frContinue_waOff (s : State) : (frContinue s).waOff = s.waOff := by unfold frContinue; split <;> [simp; (split <;> simp)]
@[simp] theorem frContinue_waLen (s : State) : (frContinue s).waLen = s.waLen := by unfold frContinue; split <;> [simp; (split <;> simp)]
@[simp] theorem frContinue_txbuf (s : State) : (frContinue s).txbuf = s.txbuf := by unfold frContinue; split <;> [simp; (split <;> simp)]
@[simp] theorem frContinue_cfg (s : State) : (frContinue s).cfg = s.cfg := by unfold frContinue; split <;> [simp; (split <;> simp)]
@[simp] theorem frContinue_txDraw (s : State) : (frContinue s).txDraw = s.txDraw := by unfold frContinue; split <;> [simp; (split <;> simp)]
@[simp] theorem frContinue_answer (s : State) : (frContinue s).answer = s.answer := by unfold frContinue; split <;> [simp; (split <;> simp)]
@[simp] theorem frContinue_pending (s : State) : (frContinue s).pending = s.pending := by unfold frContinue; split <;> [simp; (split <;> simp)]

/-! ### commandCancel -/

@[simp] theorem commandCancel_seq (s : State) : (commandCancel s).seq = s.seq := by unfold commandCancel; split <;> simp
@[simp] theorem commandCancel_done (s : State) : (commandCancel s).done = s.done := by unfold commandCancel; split <;> simp
@[simp] theorem commandCancel_fault (s : State) : (commandCancel s).fault = s.fault := by unfold commandCancel; split <;> simp
@[simp] theorem commandCancel_lastOp (s : State) : (commandCancel s).lastOp = s.lastOp := by unfold commandCancel; split <;> simp
@[simp] theorem commandCancel_cause (s : State) : (commandCancel s).cause = s.cause := by unfold commandCancel; split <;> simp
@[simp] theorem commandCancel_faultCause (s : State) : (commandCancel s).faultCause = s.faultCause := by unfold commandCancel; split <;> simp
@[simp] theorem commandCancel_result (s : State) : (commandCancel s).result = s.result := by unfold commandCancel; split <;> simp
@[simp] theorem commandCancel_debugEn (s : State) : (commandCancel s).debugEn = s.debugEn := by unfold commandCancel; split <;> simp
@[simp] theorem commandCancel_irqEn (s : State) : (commandCancel s).irqEn = s.irqEn := by unfold commandCancel; split <;> simp
@[simp] theorem commandCancel_hsLimit (s : State) : (commandCancel s).hsLimit = s.hsLimit := by unfold commandCancel; split <;> simp
@[simp] theorem commandCancel_hsAttempts (s : State) : (commandCancel s).hsAttempts = s.hsAttempts := by unfold commandCancel; split <;> simp
@[simp] theorem commandCancel_frRes (s : State) : (commandCancel s).frRes = s.frRes := by unfold commandCancel; split <;> simp
@[simp] theorem commandCancel_frEscCnt (s : State) : (commandCancel s).frEscCnt = s.frEscCnt := by unfold commandCancel; split <;> simp
@[simp] theorem commandCancel_frLen (s : State) : (commandCancel s).frLen = s.frLen := by unfold commandCancel; split <;> simp
@[simp] theorem commandCancel_frHaveLen (s : State) : (commandCancel s).frHaveLen = s.frHaveLen := by unfold commandCancel; split <;> simp
@[simp] theorem commandCancel_frEscFlag (s : State) : (commandCancel s).frEscFlag = s.frEscFlag := by unfold commandCancel; split <;> simp
@[simp] theorem commandCancel_frCnt (s : State) : (commandCancel s).frCnt = s.frCnt := by unfold commandCancel; split <;> simp
@[simp] theorem commandCancel_frBufsize (s : State) : (commandCancel s).frBufsize = s.frBufsize := by unfold commandCancel; split <;> simp
@[simp] theorem commandCancel_waOff (s : State) : (commandCancel s).waOff = s.waOff := by unfold commandCancel; split <;> simp
@[simp] theorem commandCancel_waLen (s : State) : (commandCancel s).waLen = s.waLen := by unfold commandCancel; split <;> simp
@[simp] theorem commandCancel_rxbuf (s : State) : (commandCancel s).rxbuf = s.rxbuf := by unfold commandCancel; split <;> simp
@[simp] theorem commandCancel_txbuf (s : State) : (commandCancel s).txbuf = s.txbuf := by unfold commandCancel; split <;> simp
@[simp] theorem commandCancel_events (s : State) : (commandCancel s).events = s.events := by unfold commandCancel; split <;> simp
@[simp] theorem commandCancel_cfg (s : State) : (commandCancel s).cfg = s.cfg := by unfold commandCancel; split <;> simp
@[simp] theorem commandCancel_rxDraw (s : State) : (commandCancel s).rxDraw = s.rxDraw := by unfold commandCancel; split <;> simp
@[simp] theorem commandCancel_txDraw (s : State) : (commandCancel s).txDraw = s.txDraw := by unfold commandCancel; split <;> simp
@[simp] theorem commandCancel_answer (s : State) : (commandCancel s).answer = s.answer := by unfold commandCancel; split <;> simp
@[simp] theorem commandCancel_pending (s : State) : (commandCancel s).pending = s.pending := by unfold commandCancel; split <;> simp

end Sys2Proof.Machine
end

