-- ==== Sys2Proof/Laws/PerInstr.lean ====
section
/-! SUPPORT. The family `TableRow`: the record the encoder writes for a well-formed instruction has the width of the
instruction's row of opcode_table.json and matches its match under its mask. One lemma per constructor. -/

namespace Sys2Proof.Laws.TableRow

/-- A number that holds the bits `m` of a row in its high part, under a mask of that high part, gives the row's match. -/
theorem land_high (k hi m lo : Nat) (h : lo < 2 ^ k) : (m * 2 ^ k + lo) &&& (hi * 2 ^ k) = (m &&& hi) * 2 ^ k := by
  rw [← Nat.shiftLeft_eq hi, ← Nat.shiftLeft_eq (m &&& hi), Nat.mul_comm m, Nat.two_pow_add_eq_or_of_lt h]
  apply Nat.eq_of_testBit_eq
  intro i
  simp only [Nat.testBit_and, Nat.testBit_or, Nat.testBit_shiftLeft, Nat.testBit_two_pow_mul]
  by_cases hi' : k ≤ i
  · have : lo.testBit i = false := Nat.testBit_lt_two_pow (Nat.lt_of_lt_of_le h (Nat.pow_le_pow_right (by decide) hi'))
    simp [hi', this]
  · simp [hi']

/-- The encoded record is in the row's format and matches the row. -/
def Statement (i : Instr) : Prop :=
  i.wellFormed = true →
    (encode i).width = i.tableRow.1 ∧ (encode i).toNat &&& i.tableRow.2.2 = i.tableRow.2.1

theorem sync : Statement .sync := fun _ => by decide

theorem esc : Statement .esc := fun _ => by decide

theorem data (b : Byte) : Statement (.data b) := fun _ => ⟨rfl, Nat.and_zero _⟩

theorem hsStart : Statement .hsStart := fun _ => by decide

theorem frStart (bufsize : Half) : Statement (.frStart bufsize) := fun _ =>
  ⟨rfl, by
    rw [encode, Record.toNat, toNat_cmdWord]
    exact land_high 16 0xFFFF 0x2000 bufsize.toNat bufsize.isLt⟩

theorem waStart (len : Half) : Statement (.waStart len) := fun _ =>
  ⟨rfl, by
    rw [encode, Record.toNat, toNat_cmdWord]
    exact land_high 16 0xFFFF 0x3000 len.toNat len.isLt⟩

theorem cancel : Statement .cancel := fun _ => by decide

theorem rxByte (b : Byte) : Statement (.rxByte b) := fun _ =>
  ⟨rfl, by
    have h : (0#24 ++ b : Word).toNat = (0#24).toNat * 2 ^ 8 + b.toNat := toNat_append_eq 0#24 b
    rw [encode, Record.toNat, toNat_eventRecord, h, BitVec.toNat_zero, Nat.zero_mul, Nat.zero_add]
    exact land_high 8 0xFFFFFFF 0x1000000 b.toNat b.isLt⟩

theorem rxFail (v : Word) : Statement (.rxFail v) := fun _ =>
  ⟨rfl, by rw [encode, Record.toNat, toNat_eventRecord]; exact land_high 32 0xF 0x2 v.toNat v.isLt⟩

theorem txAck (k : Word) : Statement (.txAck k) := fun _ =>
  ⟨rfl, by rw [encode, Record.toNat, toNat_eventRecord]; exact land_high 32 0xF 0x3 k.toNat k.isLt⟩

theorem txFail (v : Word) : Statement (.txFail v) := fun h =>
  ⟨rfl, by
    have hv : 2 ^ 31 ≤ v.toNat := by simpa [Instr.wellFormed, BitVec.msb_eq_decide] using h
    have e : v.toNat = 2 ^ 31 + (v.toNat - 2 ^ 31) := by omega
    rw [encode, Record.toNat, toNat_eventRecord, e, ← Nat.add_assoc]
    exact land_high 31 0x1F 0x9 (v.toNat - 2 ^ 31) (by have := v.isLt; omega)⟩

theorem delayDone : Statement .delayDone := fun _ => by decide

theorem reset : Statement .reset := fun _ => by decide

theorem bus_row (write : BitVec 1) (size : BitVec 2) (addr : HostAddr) (data : Word) :
    (busRecord write size addr data).toNat &&& 0x1C000000000000 = (write.toNat * 4 + size.toNat) * 2 ^ 50 := by
  have h : (busRecord write size addr data).toNat =
      (write.toNat * 4 + size.toNat) * 2 ^ 50 + (addr.toNat * 2 ^ 32 + data.toNat) := by
    rw [toNat_busRecord]; omega
  rw [h]
  refine (land_high 50 7 _ _ (by have := addr.isLt; have := data.isLt; omega)).trans ?_
  congr 1
  have := write.isLt; have := size.isLt
  rw [Nat.and_two_pow_sub_one_eq_mod _ 3]; omega

theorem busRdB (addr : HostAddr) : Statement (.busRdB addr) := fun _ => ⟨rfl, bus_row 0 0b00 addr 0⟩

theorem busWrB (addr : HostAddr) (d : Byte) : Statement (.busWrB addr d) := fun _ => ⟨rfl, bus_row 1 0b00 addr (0#24 ++ d)⟩

theorem busRdW (addr : HostAddr) : Statement (.busRdW addr) := fun _ => ⟨rfl, bus_row 0 0b10 addr 0⟩

theorem busWrW (addr : HostAddr) (d : Word) : Statement (.busWrW addr d) := fun _ => ⟨rfl, bus_row 1 0b10 addr d⟩

end Sys2Proof.Laws.TableRow
end

