-- ==== Sys2Proof/Laws/Step.lean ====
section
/-! SUPPORT. Everything an instruction and a step can do, said once: the moves of CORE, and the inversion of `exec` and of
`step` into them. -/

namespace Sys2Proof.Machine

/-- Every way an instruction can lead to a next state, with what held before it. -/
inductive Move (i : Instr) (s : State) : State → Prop where
  | unchanged : Move i s s
  | faulted (c : FaultCause) (hc : c ≠ .none) : Move i s (raiseFault c s)
  | readFaulted : Move i s (readError s)
  | answered (w : Word) : Move i s (giveAnswer w s)
  | cancelLatched (h : s.inHandshake = true) : Move i s (latchCancel s)
  | handshakeStarted (hi : Safety.RunsCommand i .hsStart) (h : s.seq = .idle) : Move i s (hsStartRun (clearDone s))
  | readStarted (n : Half) (hi : Safety.RunsCommand i (.frStart n)) (h : s.seq = .idle) (hn : n.toNat ≤ s.cfg.rxBufCap) :
      Move i s (beginFr n .fr (clearDone s))
  | writeStarted (n : Half) (hi : Safety.RunsCommand i (.waStart n)) (h : s.seq = .idle) (hn : n.toNat ≤ s.cfg.txBufCap) :
      Move i s (beginWa n .wa (clearDone s))
  | doneCleared : Move i s (clearDone s)
  | ctrlWritten (d : Word) (hi : i = .busWrW 0x0C d) :
      Move i s (writeCtrl d s)
  | limitWritten (d : Word) (hi : i = .busWrW 0x10 d) : Move i s (writeLimit d s)
  | txbufWritten (a : HostAddr) (d : Byte) (k : Nat) (hi : i = .busWrB a d) (ha : txIndexAt s.cfg a = some k)
      (h : s.seq ≠ .wa) : Move i s (txStore k d s)
  | syncFailed (h : s.seq = .fr ∨ s.seq = .hsFr) (hr : s.frRes = 0#16) : Move i s (frEnd 0 .syncErr s)
  | synced (h : s.seq = .fr ∨ s.seq = .hsFr) (hc : 0 < s.cfg.rxBufCap) :
      Move i s (frContinue (frCounted Config.sync (frRestart s)))
  | counted (b : Byte) (h : s.seq = .fr ∨ s.seq = .hsFr) (hb : b ≠ Config.sync) (hr : s.frRes ≠ 0#16)
      (hc : s.frRes.toNat < s.cfg.rxBufCap) : Move i s (frContinue (frCounted b s))
  | readFailed (v : Word) (hi : i = .rxFail v) (h : s.seq = .fr ∨ s.seq = .hsFr) : Move i s (frEnd v .ioRead s)
  | acknowledged (k : Word) (h : s.seq = .wa ∨ s.seq = .hsWa) (hk : k.toNat ≤ txOffered s)
      (hs : s.waOff.toNat + k.toNat ≤ txSourceSize s) : Move i s (waAccept k.toNat s)
  | writeFailed (v : Word) (hi : i = .txFail v) (h : s.seq = .wa ∨ s.seq = .hsWa) : Move i s (waEnd v .ioWrite s)
  | delayCancelled (h : s.seq = .hsDelay) (hc : s.cancelPending = true) : Move i s (endOp .hs 0 .cancelled s)
  | delayEnded (h : s.seq = .hsDelay) (hc : s.cancelPending = false) : Move i s (beginIteration s)
  | wasReset (hi : i = .reset) : Move i s (afterReset s)

theorem move_startOperation {i : Instr} {s : State} (inRange : Bool) (start : State → State)
    (h : s.seq = .idle → inRange = true → Move i s (start (clearDone s))) :
    Move i s (startOperation inRange start s) := by
  rcases startOperation_cases inRange start s with ⟨-, e⟩ | ⟨-, -, e⟩ | ⟨h1, h2, e⟩ <;> rw [e]
  · exact .faulted _ (by decide)
  · exact .faulted _ (by decide)
  · exact h h1 h2

theorem move_commandHsStart {i : Instr} (s : State) (hi : Safety.RunsCommand i .hsStart) : Move i s (commandHsStart s) :=
  move_startOperation _ _ fun h _ => .handshakeStarted hi h

theorem move_commandFrStart {i : Instr} {n : Half} (s : State) (hi : Safety.RunsCommand i (.frStart n)) :
    Move i s (commandFrStart n s) :=
  move_startOperation _ _ fun h hn => .readStarted n hi h (by simpa using hn)

theorem move_commandWaStart {i : Instr} {n : Half} (s : State) (hi : Safety.RunsCommand i (.waStart n)) :
    Move i s (commandWaStart n s) :=
  move_startOperation _ _ fun h hn => .writeStarted n hi h (by simpa using hn)

theorem move_commandCancel (i : Instr) (s : State) : Move i s (commandCancel s) := by
  unfold commandCancel
  split
  · exact .cancelLatched ‹_›
  · exact .unchanged

theorem move_writeCmd (w : Word) (s : State) : Move (.busWrW 0x00000 w) s (writeCmd w s) := by
  rcases writeCmd_cases w s with ⟨-, e⟩ | ⟨-, e⟩ | ⟨hd, e⟩ | ⟨hd, e⟩ | ⟨hd, e⟩ <;> rw [e]
  · exact .faulted _ (by decide)
  · exact move_commandCancel _ s
  · exact move_commandHsStart s (.inr ⟨w, rfl, hd⟩)
  · exact move_commandFrStart s (.inr ⟨w, rfl, hd⟩)
  · exact move_commandWaStart s (.inr ⟨w, rfl, hd⟩)

theorem regAt_eq_some {a : HostAddr} {r : Reg} (h : regAt a = some r) :
    a = match r with
      | .cmd => 0x00 | .status => 0x04 | .result => 0x08 | .ctrl => 0x0C | .hsLimit => 0x10 | .hsAttempts => 0x14
      | .frCount => 0x18 | .frLen => 0x1C | .frCap => 0x20 | .waPos => 0x24 := by
  unfold regAt at h
  split at h <;> cases h <;> (apply BitVec.eq_of_toNat_eq; simpa using ‹a.toNat = _›)

theorem move_rxReceive {i : Instr} {b : Byte} {s t : State} (h : rxReceive b s = .next t) : Move i s t := by
  obtain ⟨ha, h⟩ := rxReceive_next h
  rw [awaitsRx_iff] at ha
  rcases h with ⟨-, hr, rfl⟩ | ⟨rfl, hc, rfl⟩ | ⟨hb, hr, hc, rfl⟩
  · exact .syncFailed ha hr
  · exact .synced ha hc
  · exact .counted b ha hb hr hc

/-- Whatever an instruction leads to is one of the moves. -/
theorem exec_move {i : Instr} {s t : State} (h : exec i s = .next t) : Move i s t := by
  cases i with
  | sync => exact move_rxReceive h
  | esc => exact move_rxReceive h
  | data b => exact move_rxReceive h
  | rxByte b => exact move_rxReceive h
  | hsStart => cases h; exact move_commandHsStart s (.inl rfl)
  | frStart n => cases h; exact move_commandFrStart s (.inl rfl)
  | waStart n => cases h; exact move_commandWaStart s (.inl rfl)
  | cancel => cases h; exact move_commandCancel _ s
  | rxFail v =>
    simp only [exec, execRxFail] at h
    split at h
    · cases h; exact .readFailed v rfl ((awaitsRx_iff s).mp ‹_›)
    · cases h
  | txAck k =>
    simp only [exec, execTxAck] at h
    split at h
    · rename_i ha
      rw [awaitsTx_iff] at ha
      split at h
      · cases h; exact .faulted _ (by decide)
      · split at h
        · cases h; exact .acknowledged k ha (by omega) ‹_›
        · cases h
    · cases h
  | txFail v =>
    simp only [exec, execTxFail] at h
    split at h
    · cases h; exact .writeFailed v rfl ((awaitsTx_iff s).mp ‹_›)
    · cases h
  | delayDone =>
    simp only [exec, execDelayDone] at h
    split at h
    · rename_i ha
      rw [awaitsTimer_iff] at ha
      split at h
      · cases h; exact .delayCancelled ha ‹_›
      · cases h; exact .delayEnded ha (by simp_all)
    · cases h
  | reset => cases h; exact .wasReset rfl
  | busRdB a =>
    simp only [exec, execBusRdB] at h
    split at h <;> cases h
    · exact .answered _
    · exact .answered _
    · exact .readFaulted
  | busWrB a d =>
    simp only [exec, execBusWrB] at h
    split at h <;> cases h
    · unfold writeTxbuf
      split
      · exact .faulted _ (by decide)
      · exact .txbufWritten a d _ rfl ‹_› ‹_›
    · exact .faulted _ (by decide)
  | busRdW a =>
    simp only [exec, execBusRdW] at h
    split at h <;> cases h
    · exact .answered _
    · exact .readFaulted
  | busWrW a d =>
    simp only [exec, execBusWrW] at h
    split at h <;> cases h
    · rename_i r hr
      have ha := regAt_eq_some hr
      cases r with
      | cmd =>
        obtain rfl : a = 0x00000 := ha
        exact move_writeCmd d s
      | status =>
        simp only [writeReg]
        split
        · exact .doneCleared
        · exact .unchanged
      | ctrl => exact .ctrlWritten d (by rw [ha])
      | hsLimit => exact .limitWritten d (by rw [ha])
      | result | hsAttempts | frCount | frLen | frCap | waPos => exact .faulted _ (by decide)
    · exact .faulted _ (by decide)

/-- A record that spells no instruction leads to a next state only by raising its fault. -/
theorem refuseRecord_next {e : DecodeError} {s t : State} (h : refuseRecord e s = .next t) :
    (∃ c, c ≠ .none ∧ t = raiseFault c s) ∨ t = readError s := by
  cases e with
  | illegalCommand => cases h; exact .inl ⟨_, by decide, rfl⟩
  | reservedWidth w =>
    cases h
    unfold reservedWidthAccess
    split
    · exact .inl ⟨_, by decide, rfl⟩
    · exact .inr rfl
  | reservedEvent w => cases h

/-- Everything a step that leads to a next state can be. -/
theorem step_next {s t : State} (h : step s = .next t) :
    Config.wellFormed s.cfg = true ∧
      ((s.pending = [] ∧ t = s) ∨
       ∃ r rest, s.pending = r :: rest ∧
        ((∃ i, decode r = .ok i ∧ Move i (takeRecord rest s) t) ∨
         (∃ c, c ≠ .none ∧ t = raiseFault c (takeRecord rest s)) ∨ t = readError (takeRecord rest s))) := by
  unfold step at h
  split at h
  · refine ⟨by assumption, ?_⟩
    split at h
    · cases h; exact .inl ⟨by assumption, rfl⟩
    · rename_i r rest hp
      refine .inr ⟨r, rest, hp, ?_⟩
      split at h
      · exact .inl ⟨_, by assumption, exec_move h⟩
      · exact .inr (refuseRecord_next h)
  · cases h

/-- Receiving a byte, whichever instruction says so, is the per-byte step on it. -/
theorem exec_of_receives {i : Instr} {b : Byte} (h : Safety.Receives i b) (s : State) : exec i s = rxReceive b s := by
  rcases h with rfl | rfl
  · rfl
  · unfold decodeWire
    split
    · subst b; rfl
    · split
      · subst b; rfl
      · rfl

end Sys2Proof.Machine
end

