-- ==== Sys2Proof/Laws/Read.lean ====
section
/-! SUPPORT. What receiving a byte does, said once: the three forms of `exec` on a received byte, the registers after a
counted byte, and what the end of a read leaves of RXBUF. -/

namespace Sys2Proof.Machine

open Sys2Proof.Safety

/-- The bounds of a well-formed configuration, as numbers. -/
theorem config_bounds {s : State} (h : ConfigOk s) :
    1 ≤ s.cfg.rxBufCap ∧ s.cfg.rxBufCap ≤ 65535 ∧ 1 ≤ s.cfg.txBufCap ∧ s.cfg.txBufCap ≤ 65535 ∧
      s.cfg.hsBufSize ≤ s.cfg.rxBufCap := by
  simp [ConfigOk, Config.wellFormed] at h; omega

theorem awaitsRx_of_reading {s : State} (h : Reading s) : s.awaitsRx = true := (awaitsRx_iff s).mpr h

theorem not_zero_toNat {w : Nat} {x : BitVec w} (h : x ≠ 0) : x.toNat ≠ 0 :=
  fun h' => h (BitVec.eq_of_toNat_eq (by simpa using h'))

/-- A sync byte restarts the frame and is its first counted byte. -/
theorem exec_received_sync {i : Instr} {s : State} (hi : Receives i Config.sync) (hc : ConfigOk s) (hr : Reading s) :
    exec i s = .next (frContinue (frCounted Config.sync (frRestart s))) := by
  have := config_bounds hc
  rw [exec_of_receives hi]; unfold rxReceive frConsume
  rw [if_pos (awaitsRx_of_reading hr), if_pos rfl, if_pos (by simp; omega)]

/-- Any other byte before the first sync byte is a sync error. -/
theorem exec_received_unsynced {i : Instr} {b : Byte} {s : State} (hi : Receives i b) (hb : b ≠ Config.sync)
    (hr : Reading s) (h0 : s.frRes = 0) : exec i s = .next (frEnd 0 .syncErr s) := by
  rw [exec_of_receives hi]; unfold rxReceive
  rw [if_pos (awaitsRx_of_reading hr), if_neg hb]; exact if_pos h0

/-- Any other byte of a synced read is counted. -/
theorem exec_received_counted {i : Instr} {b : Byte} {s : State} (hi : Receives i b) (hb : b ≠ Config.sync)
    (hr : Reading s) (h0 : s.frRes ≠ 0) (hl : s.frRes.toNat < s.cfg.rxBufCap) :
    exec i s = .next (frContinue (frCounted b s)) := by
  rw [exec_of_receives hi]; unfold rxReceive frConsume
  rw [if_pos (awaitsRx_of_reading hr), if_neg hb]; exact (if_neg h0).trans (if_pos hl)

@[simp] theorem frCounted_frRes (b : Byte) (s : State) : (frCounted b s).frRes = s.frRes + 1 := by
  simp only [frCounted, frStore_frRes, frDecode_frRes, frCount_frRes]

@[simp] theorem frCounted_frCnt (b : Byte) (s : State) : (frCounted b s).frCnt = s.frCnt - 1 := by simp [frCounted]

@[simp] theorem frCounted_rxbuf (b : Byte) (s : State) :
    (frCounted b s).rxbuf = memInsert s.rxbuf s.frRes.toNat b := by simp [frCounted]

/-- The count does not wrap inside RXBUF. -/
theorem frRes_succ {s : State} (hc : ConfigOk s) (h : s.frRes.toNat < s.cfg.rxBufCap) :
    (s.frRes + 1).toNat = s.frRes.toNat + 1 := by
  have := config_bounds hc
  rw [BitVec.toNat_add]; simp; omega

/-- Counting a byte extends the counted part of RXBUF by that byte. -/
theorem rxBytes_frCounted (b : Byte) (s : State) :
    rxBytes (frCounted b s) 0 (s.frRes.toNat + 1) = rxBytes s 0 s.frRes.toNat ++ [b] := by
  rw [← rxBytes_rxStore_succ]; exact rxBytes_congr (by simp) (by simp) _ _

/-- The first byte of a frame clears no length and sets none: it is stored at index 0 and counted. -/
theorem frCounted_restart (s : State) :
    frCounted Config.sync (frRestart s) = frStore 0 Config.sync (frClearFlag (frCount (frRestart s))) := by
  have h : frDecode Config.sync (frCount (frRestart s)) = frClearFlag (frCount (frRestart s)) := by
    rcases frDecode_cases Config.sync (frCount (frRestart s)) with ⟨a, -, e⟩ | ⟨-, a, e⟩ | ⟨-, a, e⟩
    · exact absurd a (by decide)
    · exact e
    · rw [e]; simp [frAccumulate]
  unfold frCounted; rw [h]; rfl

/-- A counted escape marker is marked. -/
theorem frDecode_marker {s : State} (hc : ConfigOk s) (h0 : s.frRes ≠ 0) (hl : s.frRes.toNat < s.cfg.rxBufCap) :
    frDecode Config.esc (frCount s) = frMarker (frCount s) := by
  unfold frDecode
  have h1 : 1 < (frCount s).frRes.toNat := by
    rw [frCount_frRes, frRes_succ hc hl]
    have := not_zero_toNat h0; omega
  exact if_pos ⟨rfl, h1⟩

/-- The completion test, as numbers. -/
theorem frComplete_iff (s : State) :
    frComplete s = true ↔ s.frHaveLen = true ∧ s.frLen.toNat + s.frEscCnt.toNat + 5 ≤ s.frRes.toNat := by
  unfold frComplete; rw [Bool.and_eq_true, decide_eq_true_iff]; rfl

/-- A read that ends with a result of 0 or below ends the operation, and RXBUF is unspecified. -/
theorem frEnd_of_nonpos {r : Word} (c : Cause) {s : State} (hr : Reading s) (hv : r.toInt ≤ 0) :
    frEnd r c s = endOp (if s.seq = .fr then .fr else .hs) r c (rxClear s) := by
  unfold frEnd; rw [dumpAtEnd_of_nonpos hv, forgetAtEnd_of_nonpos hv]
  unfold frHandOver
  rcases hr with h | h
  · simp [h]
  · simp [h, hsAfterRead, hv]

/-- A read that ends with a count keeps RXBUF. -/
theorem frEnd_of_count {s : State} (h : 1 ≤ s.frRes.toNat) (c : Cause) :
    frEnd (0#16 ++ s.frRes) c s = frHandOver (0#16 ++ s.frRes) c (dumpAtEnd (0#16 ++ s.frRes) s) := by
  unfold frEnd; rw [forgetAtEnd_of_pos]; rw [toInt_zeroExtend16]; omega

/-- The tests after the store keep RXBUF. -/
theorem frContinue_rxbuf {s : State} (h : 1 ≤ s.frRes.toNat) :
    (frContinue s).rxbuf = s.rxbuf ∧ (frContinue s).rxDraw = s.rxDraw := by
  rcases frContinue_cases s with ⟨-, e⟩ | ⟨-, -, e⟩ | ⟨-, -, e⟩ <;> rw [e]
  · rw [frEnd_of_count h]; simp
  · rw [frEnd_of_count h]; simp
  · simp

/-- A read that ends leaves its state, for IDLE or for the retry delay. -/
theorem frEnd_seq {r : Word} {c : Cause} {s : State} (h : Reading s) :
    (frEnd r c s).seq = .idle ∨ (frEnd r c s).seq = .hsDelay := by
  rcases h with h | h
  · rw [frEnd_of_fr h]; simp
  · rw [frEnd_of_hsFr h]
    rcases hsAfterRead_cases r c (forgetAtEnd r (dumpAtEnd r s)) with ⟨-, e⟩ | ⟨-, -, e⟩ | ⟨-, -, -, e⟩ | ⟨-, -, -, e⟩ <;>
      rw [e] <;> simp

/-- The sentinel of a failure record is 0 or negative. -/
theorem toInt_of_rxFail {v : Word} (h : (Instr.rxFail v).wellFormed = true) : v.toInt ≤ 0 := by
  simp [Instr.wellFormed] at h
  rcases h with rfl | h
  · decide
  · rw [BitVec.toInt_eq_msb_cond, if_pos h]; have := v.isLt; omega

end Sys2Proof.Machine
end

