-- ==== Sys2Proof/Laws/Write.lean ====
section
/-! SUPPORT. What an acknowledgement does, said once, and the indices the host address map gives. -/

namespace Sys2Proof.Machine

open Sys2Proof.Safety

@[simp] theorem waSend_waOff (k : Nat) (s : State) : (waSend k s).waOff = s.waOff + BitVec.ofNat 16 k := by
  simp [waSend]

theorem waSend_off {k : Nat} {s : State} (h : s.waOff.toNat + k ≤ s.waLen.toNat) :
    (waSend k s).waOff.toNat = s.waOff.toNat + k := by
  rw [waSend_waOff, BitVec.toNat_add, BitVec.toNat_ofNat]
  have := s.waLen.isLt; omega

/-- The acknowledgement of the last bytes ends the write. -/
theorem waAccept_last {k : Nat} {s : State} (h : s.waOff.toNat + k = s.waLen.toNat) :
    waAccept k s = waEnd (0#16 ++ s.waLen) .ok (waSend k s) := by
  unfold waAccept
  rw [if_pos (BitVec.eq_of_toNat_eq (by rw [waSend_off (by omega), h]))]

/-- Any other acknowledgement leaves the request outstanding. -/
theorem waAccept_part {k : Nat} {s : State} (h : s.waOff.toNat + k < s.waLen.toNat) : waAccept k s = waSend k s := by
  unfold waAccept
  rw [if_neg fun e => ?_]
  have e' := congrArg BitVec.toNat e
  rw [waSend_off (by omega)] at e'; omega

/-- An acknowledgement of no more bytes than offered is accepted. -/
theorem exec_txAck {k : Word} {s : State} (hw : s.seq = .wa ∨ s.seq = .hsWa) (h : WriteOk s)
    (hk : k.toNat ≤ txOffered s) :
    exec (.txAck k) s = .next (waAccept k.toNat s) ∧ s.waOff.toNat + k.toNat ≤ s.waLen.toNat ∧
      s.waOff.toNat + k.toNat ≤ txSourceSize s := by
  obtain ⟨a, b, c⟩ := h
  unfold txOffered at hk
  have hs : s.waOff.toNat + k.toNat ≤ txSourceSize s := by
    unfold txSourceSize
    rcases hw with hw | hw
    · rw [if_neg (by simp [hw])]; have := b hw; omega
    · rw [if_pos hw]
      have h8 : s.waLen.toNat = 8 := by rw [(c hw).2]; rfl
      have : Config.romCmd.length = 8 := rfl
      omega
  refine ⟨?_, by omega, hs⟩
  simp only [exec, execTxAck]
  rw [if_pos ((awaitsTx_iff s).mpr hw), if_neg (by unfold txOffered; omega), if_pos hs]

theorem txSource_length {s : State} {n : Nat} (h : s.waOff.toNat + n ≤ txSourceSize s) :
    (txSource s s.waOff.toNat n).length = n := by
  unfold txSource; unfold txSourceSize at h
  split
  · rename_i hh; rw [if_pos hh] at h; simp; omega
  · simp

theorem waSend_events (k : Nat) (s : State) :
    (waSend k s).events =
      s.events ++ (if txSource s s.waOff.toNat k = [] then [] else [.tx (txSource s s.waOff.toNat k)]) := by
  simp only [waSend, waAdvance_events, emitTx_events]

/-- A write that ends with OK emits nothing more. -/
theorem waEnd_ok_events (r : Word) (s : State) : (waEnd r .ok s).events = s.events := by
  unfold waEnd
  split
  · simp
  · simp only [hsAfterWrite, if_true]
    unfold beginFr
    split
    · rw [frEnd_of_nonpos _ (.inr (by simp)) (by decide)]; simp
    · simp
  all_goals rfl

/-- HS_BUF_SIZE fits the 16 bits it is read with. -/
theorem hsBufSize_toNat {s : State} (h : ConfigOk s) :
    (BitVec.ofNat 16 s.cfg.hsBufSize).toNat = s.cfg.hsBufSize ∧ s.cfg.hsBufSize ≤ s.cfg.rxBufCap := by
  have := config_bounds h; simp; omega

/-- The RXBUF window of the address map. -/
theorem rxIndexAt_eq_some {p : Config.Params} (hp : p.rxBufCap ≤ 65536) (a : HostAddr) (k : Nat) :
    rxIndexAt p a = some k ↔ a.toNat = 0x10000 + k ∧ k < p.rxBufCap := by
  unfold rxIndexAt
  split
  · rw [Option.some_inj]; omega
  · simp only [reduceCtorEq, false_iff]; omega

/-- The TXBUF window of the address map. -/
theorem txIndexAt_eq_some {p : Config.Params} (hp : p.txBufCap ≤ 65536) (a : HostAddr) (k : Nat) :
    txIndexAt p a = some k ↔ a.toNat = 0x20000 + k ∧ k < p.txBufCap := by
  unfold txIndexAt
  split
  · rw [Option.some_inj]; omega
  · simp only [reduceCtorEq, false_iff]; omega

end Sys2Proof.Machine
end

