-- ==== Sys2Proof/Tests/Slice0.lean ====
section
/-! SUPPORT. The model's own tests: ill-formed terms, decoded words and single steps, with expected values from
95_test_vectors.md, and for every statement with hypotheses a concrete state and operands that meet them. -/

namespace Sys2Proof.Tests

open Sys2Proof.Machine Sys2Proof.Safety

/-! ### Small states -/

/-- The outcome is a next state with a property. -/
def reaches (o : Host.Outcome State Fault Refusal) (p : State → Bool) : Bool :=
  match o with
  | .next s => p s
  | .fault _ | .refused _ => false

/-- What `reaches` says of the state that is reached. -/
theorem of_reaches {o : Host.Outcome State Fault Refusal} {p : State → Bool} {t : State} (h : reaches o p = true)
    (e : o = .next t) : p t = true := by
  subst e
  exact h

/-- A read of 64 bytes, unsynced. -/
def unsynced : State := { State.reset with seq := .fr, frBufsize := 64, frCnt := 64 }

/-- FR-M1: a read of 64 bytes that has counted FD 00 05 11. -/
def midFrame : State :=
  { unsynced with frCnt := 60, frRes := 4, frLen := 5, frHaveLen := true,
                  rxbuf := [(0, 0xFD), (1, 0x00), (2, 0x05), (3, 0x11)] }

/-- FR-01 before its last byte: FD 00 00 AA. -/
def lastByteMissing : State := { midFrame with frLen := 0, rxbuf := [(0, 0xFD), (1, 0x00), (2, 0x00), (3, 0xAA)] }

/-- FR-11 before its last byte: a buffer of 4 bytes that holds FD 00 05. -/
def oneByteLeft : State :=
  { unsynced with frBufsize := 4, frCnt := 1, frRes := 3, frLen := 5, frHaveLen := true,
                  rxbuf := [(0, 0xFD), (1, 0x00), (2, 0x05)] }

/-- FD alone: the next logical byte is the high half of the length. -/
def onlySync : State := { unsynced with frCnt := 63, frRes := 1, rxbuf := [(0, 0xFD)] }

/-- FR-03 before its last byte: FD 00 FC. -/
def afterMarker : State :=
  { unsynced with frBufsize := 4, frCnt := 1, frRes := 3, frEscCnt := 1, frEscFlag := true,
                  rxbuf := [(0, 0xFD), (1, 0x00), (2, 0xFC)] }

/-- A write of the eight bytes 01..08, three of them accepted. -/
def writing : State :=
  { State.reset with
    seq := .wa, waLen := 8, waOff := 3, events := [.tx [1, 2, 3]],
    txbuf := [(0, 1), (1, 2), (2, 3), (3, 4), (4, 5), (5, 6), (6, 7), (7, 8)] }

/-- The same write before its first acknowledgement. -/
def writingFromStart : State := { writing with waOff := 0, events := [] }

/-- A handshake that has begun its first iteration. -/
def hsWriting : State := { State.reset with seq := .hsWa, waLen := 8, hsAttempts := 1, events := [.flush] }

/-- A handshake that reads the reply, before its first byte. -/
def hsReading : State :=
  { hsWriting with seq := .hsFr, waOff := 8, frBufsize := 64, frCnt := 64, events := [.flush, .tx Config.romCmd] }

/-- A handshake that has read FD 00 00 AA of a frame that matches no signature. -/
def hsLastByteMissing : State :=
  { hsReading with frCnt := 60, frRes := 4, frHaveLen := true, rxbuf := [(0, 0xFD), (1, 0x00), (2, 0x00), (3, 0xAA)] }

/-- A handshake that reads with a buffer of 16 bytes, and has read all of the second signature but its last byte. -/
def hsSignatureButLast : State :=
  { hsReading with
    frBufsize := 16, frCnt := 1, frRes := 15, frLen := 13, frHaveLen := true,
    rxbuf := [(0, 0xFD), (1, 0x00), (2, 0x0D), (3, 0x00), (4, 0x00), (5, 0x00), (6, 0x43), (7, 0x6F), (8, 0x5F), (9, 0x43),
      (10, 0x50), (11, 0x55), (12, 0x5F), (13, 0x41), (14, 0x70)] }

/-- A handshake in its retry delay. -/
def delaying : State := { hsReading with seq := .hsDelay, events := [.flush, .tx Config.romCmd, .delayStart] }

/-- A machine just powered on, with FR_START 0 to come. -/
def launchedEmptyRead : State := { State.reset with pending := [.cmd32 0x20000000] }

/-- A machine whose host has written TXBUF[0], with WA_START 1 and its acknowledgement to come. -/
def launchedWrite : State :=
  { State.reset with txbuf := [(0, 0xFD)], pending := [.bus53 0x18000030000001, .ev36 0x300000001] }

/-- HS-01 before the last byte of the first signature. -/
def hsFirstSignatureButLast : State :=
  { hsReading with
    frCnt := 48, frRes := 16, frLen := 12, frHaveLen := true,
    rxbuf := [(0, 0xFD), (1, 0x00), (2, 0x0C), (3, 0x00), (4, 0x00), (5, 0x00), (6, 0x43), (7, 0x6F), (8, 0x5F), (9, 0x43),
      (10, 0x50), (11, 0x55), (12, 0x5F), (13, 0x42), (14, 0x4C), (15, 0x72)] }

/-- A state in which ILLEGAL_CMD has been recorded. -/
def faulted : State := { State.reset with fault := true, faultCause := .illegalCmd }

/-! ### Ill-formed terms -/

theorem test_data_refuses_sync : (Instr.data 0xFD).wellFormed = false := by decide
theorem test_data_refuses_esc : (Instr.data 0xFC).wellFormed = false := by decide
theorem test_rxFail_refuses_positive :
    (Instr.rxFail 1).wellFormed = false ∧ (Instr.rxFail 0x7FFFFFFF).wellFormed = false := by decide
theorem test_txFail_refuses_nonnegative :
    (Instr.txFail 0).wellFormed = false ∧ (Instr.txFail 0x7FFFFFFF).wellFormed = false := by decide
theorem test_config_refuses_bad_sizes :
    Config.wellFormed ⟨0, 256, 0⟩ = false ∧ Config.wellFormed ⟨256, 65536, 64⟩ = false ∧
      Config.wellFormed ⟨64, 256, 65⟩ = false ∧ Config.wellFormed ⟨65535, 65535, 65535⟩ = true := by decide

/-! ### Decoded words

Each record is written out from the field layout of 30_encoding.md, highest field first. -/

theorem test_decode_sync : decode (.wire8 0b1111_1101) = .ok .sync := by decide
theorem test_decode_esc : decode (.wire8 0b1111_1100) = .ok .esc := by decide
theorem test_decode_data : decode (.wire8 0b1111_1110) = .ok (.data 0xFE) := by decide
theorem test_decode_hsStart : decode (.cmd32 0b0001_000000000000_0000000000000000) = .ok .hsStart := by decide
theorem test_decode_frStart : decode (.cmd32 0b0010_000000000000_0000000101000000) = .ok (.frStart 320) := by decide
theorem test_decode_waStart : decode (.cmd32 0b0011_000000000000_1111111111111111) = .ok (.waStart 65535) := by decide
theorem test_decode_cancel : decode (.cmd32 0b0100_000000000000_0000000000000000) = .ok .cancel := by decide
theorem test_decode_illegal_command :
    decode (.cmd32 0x00000000) = .error .illegalCommand ∧ decode (.cmd32 0x10000001) = .error .illegalCommand ∧
      decode (.cmd32 0x20010040) = .error .illegalCommand ∧ decode (.cmd32 0x50000000) = .error .illegalCommand := by
  decide
theorem test_decode_rxByte : decode (.ev36 0b0001_000000000000000000000000_11111101) = .ok (.rxByte 0xFD) := by decide
theorem test_decode_rxFail : decode (.ev36 0b0010_11111111111111111111111111111111) = .ok (.rxFail (-1)) := by decide
theorem test_decode_txAck : decode (.ev36 0b0011_00000000000000000000000000000101) = .ok (.txAck 5) := by decide
theorem test_decode_txFail : decode (.ev36 0b0100_11111111111111111111111111111011) = .ok (.txFail (-5)) := by decide
theorem test_decode_delayDone : decode (.ev36 0b0101_00000000000000000000000000000000) = .ok .delayDone := by decide
theorem test_decode_reset : decode (.ev36 0b1111_00000000000000000000000000000000) = .ok .reset := by decide
theorem test_decode_reserved_events :
    decode (.ev36 0x000000000) = .error (.reservedEvent .reservedKind) ∧
      decode (.ev36 0x100000100) = .error (.reservedEvent .rxBytePayload) ∧
      decode (.ev36 0x27FFFFFFF) = .error (.reservedEvent .rxFailPositive) ∧
      decode (.ev36 0x400000000) = .error (.reservedEvent .txFailNonnegative) ∧
      decode (.ev36 0x500000001) = .error (.reservedEvent .delayDonePayload) ∧
      decode (.ev36 0xF80000000) = .error (.reservedEvent .resetPayload) := by decide
theorem test_decode_busRdB :
    decode (.bus53 0b0_00_010000000000000111_00000000000000000000000000000000) = .ok (.busRdB 0x10007) := by decide
theorem test_decode_busWrB :
    decode (.bus53 0b1_00_100000000000000000_00000000000000000000000011111101) = .ok (.busWrB 0x20000 0xFD) := by decide
theorem test_decode_busRdW :
    decode (.bus53 0b0_10_000000000000100100_00000000000000000000000000000000) = .ok (.busRdW 0x00024) := by decide
theorem test_decode_busWrW :
    decode (.bus53 0b1_10_000000000000010000_00000000000000000000000000000011) = .ok (.busWrW 0x00010 3) := by decide
theorem test_decode_reserved_widths :
    decode (.bus53 0x04000000000000) = .error (.reservedWidth false) ∧
      decode (.bus53 0x1C000000000000) = .error (.reservedWidth true) := by decide
theorem test_decodeTableWord :
    decodeTableWord 8 0x00 = some (.data 0) ∧ decodeTableWord 32 0x10000000 = some .hsStart ∧
      decodeTableWord 40 0x480000000 = some (.txFail 0x80000000) ∧
      decodeTableWord 56 0x18000000000000 = some (.busWrW 0 0) := by decide

/-! ### Single steps

Expected values from the vector named in each comment. -/

/-- FR-20: a sync byte inside a frame restores the capacity. -/
theorem test_sync_restores_capacity :
    reaches (exec .sync midFrame)
      (fun t => t.frRes = 1 ∧ t.frCnt = 63 ∧ t.frLen = 0 ∧ t.frHaveLen = false ∧ t.rxbuf = [(0, 0xFD)]) := by decide
/-- FR-M2: the length is pending after FD 00 FC. -/
theorem test_esc_is_counted :
    reaches (exec .esc { onlySync with frRes := 2, frCnt := 62, rxbuf := [(0, 0xFD), (1, 0x00)] })
      (fun t => readReg t .frCount = 0x00010003 ∧ readReg t .frLen = 0x00020000 ∧
        readReg t .frCap = 0x0040003D) := by decide
/-- FR-26: a marker as the first byte is a sync error. -/
theorem test_esc_first_is_sync_error :
    reaches (exec .esc unsynced)
      (fun t => t.statusWord = 0x00004220 ∧ t.result = 0 ∧ readReg t .frCap = 0x00400040) := by decide
/-- FR-03: 0x7D after a marker is the low length byte 0xFD, and the buffer is full. -/
theorem test_data_after_marker :
    reaches (exec (.data 0x7D) afterMarker)
      (fun t => t.result = 4 ∧ t.statusWord = 0x00005220 ∧ readReg t .frCount = 0x00010004 ∧
        readReg t .frLen = 0x000100FD ∧ readReg t .frCap = 0x00040000) := by decide
/-- FR-01: the last byte completes the frame. -/
theorem test_rxByte_completes :
    reaches (exec (.rxByte 0xBB) lastByteMissing)
      (fun t => t.result = 5 ∧ t.statusWord = 0x00001220 ∧ readReg t .frCount = 0x00000005 ∧
        readReg t .frLen = 0x00010000 ∧ readReg t .frCap = 0x0040003B) := by decide
/-- FR-D3: the dump of a partial result. -/
theorem test_rxByte_dumps :
    reaches (exec (.rxByte 0x11) { oneByteLeft with debugEn := true })
      (fun t => t.result = 4 ∧ t.events = [.dump [0xFD, 0x00, 0x05, 0x11] 4]) := by decide
/-- FR-09: a read failure keeps the frame registers. -/
theorem test_rxFail_mid_frame :
    reaches (exec (.rxFail (-1)) midFrame)
      (fun t => t.result = 0xFFFFFFFF ∧ t.statusWord = 0x00002220 ∧ readReg t .frCount = 0x00000004 ∧
        readReg t .frCap = 0x0040003C) := by decide
/-- FR-10: a zero sentinel is a failure. -/
theorem test_rxFail_zero :
    reaches (exec (.rxFail 0) unsynced) (fun t => t.result = 0 ∧ t.statusWord = 0x00002220) := by decide
/-- HS-01, first event: an iteration flushes and offers ROM_CMD. -/
theorem test_hsStart :
    reaches (exec .hsStart State.reset)
      (fun t => t.seq = .hsWa ∧ t.hsAttempts = 1 ∧ t.events = [.flush] ∧ readReg t .waPos = 0x00080000) := by decide
/-- CB-06: a start command while FR runs. -/
theorem test_frStart_busy :
    reaches (exec (.frStart 16) unsynced)
      (fun t => t.statusWord = 0x00020051 ∧ readReg t .frCap = 0x00400040) := by decide
/-- FR-12: a read of 0 bytes ends in the command's step. -/
theorem test_frStart_zero :
    reaches (exec (.frStart 0) State.reset) (fun t => t.statusWord = 0x00005220 ∧ t.result = 0) := by decide
/-- WA-10: a length above the buffer. -/
theorem test_waStart_too_long :
    reaches (exec (.waStart 257) State.reset) (fun t => t.statusWord = 0x00030040 ∧ readReg t .waPos = 0) := by decide
/-- WA-06: a write of 0 bytes ends in the command's step. -/
theorem test_waStart_zero :
    reaches (exec (.waStart 0) State.reset) (fun t => t.statusWord = 0x00001320 ∧ t.result = 0) := by decide
/-- HS-08: a cancel is latched while the reply is read; CB-07: it has no effect in IDLE. -/
theorem test_cancel :
    reaches (exec .cancel hsReading) (fun t => t.statusWord = 0x00000094) ∧
      reaches (exec .cancel State.reset) (fun t => t.statusWord = 0) := by decide
/-- WA-02, last response: two of the offered bytes remained. -/
theorem test_txAck_ends :
    reaches (exec (.txAck 5) writing)
      (fun t => t.result = 8 ∧ t.statusWord = 0x00001320 ∧ readReg t .waPos = 0x00080008 ∧
        t.txStream = [1, 2, 3, 4, 5, 6, 7, 8]) := by decide
/-- WA-07: more bytes acknowledged than offered. -/
theorem test_txAck_too_many :
    reaches (exec (.txAck 9) writingFromStart)
      (fun t => t.statusWord = 0x00040052 ∧ readReg t .waPos = 0x00080000) := by decide
/-- WA-05: a failure after a partial write. -/
theorem test_txFail_partial :
    reaches (exec (.txFail (-5)) writing)
      (fun t => t.result = 0xFFFFFFFB ∧ t.statusWord = 0x00003320 ∧ readReg t .waPos = 0x00080003 ∧
        t.txStream = [1, 2, 3]) := by decide
/-- HS-05: a write failure ends the handshake. -/
theorem test_txFail_handshake :
    reaches (exec (.txFail (-1)) hsWriting) (fun t => t.result = 0xFFFFFFFF ∧ t.statusWord = 0x00003120) := by decide
/-- HS-03: the second iteration. HS-08: a pending cancel outranks it. -/
theorem test_delayDone :
    reaches (exec .delayDone delaying) (fun t => t.seq = .hsWa ∧ t.hsAttempts = 2 ∧ t.events.getLast? = some .flush) ∧
      reaches (exec .delayDone { delaying with cancelPending := true })
      (fun t => t.result = 0 ∧ t.statusWord = 0x00006120) := by decide
/-- RS-02: the TX stream keeps its bytes over a reset, and WA_POS is 0. -/
theorem test_reset_keeps_stream :
    reaches (exec .reset writing)
      (fun t => t.statusWord = 0 ∧ readReg t .waPos = 0 ∧ t.txStream = [1, 2, 3]) := by decide
/-- P2, the byte reads of RXBUF; CB-10: a byte read of a register. -/
theorem test_busRdB :
    reaches (exec (.busRdB 0x10002) midFrame) (fun t => t.answer = some 0x05) ∧
      reaches (exec (.busRdB 0x00004) State.reset)
      (fun t => t.answer = some 0 ∧ t.statusWord = 0x00060040) := by decide
/-- WA-11: TXBUF is busy in WA. P1, line 1: it is written in IDLE. -/
theorem test_busWrB :
    reaches (exec (.busWrB 0x20000 0x55) writing) (fun t => t.statusWord = 0x00050052 ∧ t.txbuf = writing.txbuf) ∧
      reaches (exec (.busWrB 0x20000 0xFD) State.reset) (fun t => t.txbuf = [(0, 0xFD)]) := by decide
/-- CB-08: an unmapped register. CB-12: a word access to a buffer. -/
theorem test_busRdW :
    reaches (exec (.busRdW 0x00028) State.reset) (fun t => t.answer = some 0 ∧ t.statusWord = 0x00060040) ∧
      reaches (exec (.busRdW 0x10000) State.reset)
      (fun t => t.answer = some 0 ∧ t.statusWord = 0x00060040) := by decide
/-- CB-14, CB-15: the writable fields. CB-02: an illegal word written to CMD. -/
theorem test_busWrW :
    reaches (exec (.busWrW 0x0000C 0xFFFFFFFF) State.reset) (fun t => readReg t .ctrl = 3) ∧
      reaches (exec (.busWrW 0x00010 0x00012345) State.reset) (fun t => readReg t .hsLimit = 0x2345) ∧
      reaches (exec (.busWrW 0x00000 0x00000000) State.reset) (fun t => t.statusWord = 0x00010040) := by decide
/-- 10_state.md R49-R51: the bytes of ROM_CMD and of the two signatures. -/
theorem test_rom_bytes :
    Config.romCmd = [0xFD, 0x00, 0x03, 0x00, 0x00, 0x03, 0x18, 0x0A] ∧
      Config.romSig1 = [0xFD, 0x00, 0x0C, 0x00, 0x00, 0x00, 0x43, 0x6F, 0x5F, 0x43, 0x50, 0x55, 0x5F, 0x42, 0x4C, 0x72, 0x51] ∧
      Config.romSig2 = [0xFD, 0x00, 0x0D, 0x00, 0x00, 0x00, 0x43, 0x6F, 0x5F, 0x43, 0x50, 0x55, 0x5F, 0x41, 0x70, 0x70] := by
  decide
/-- HS-01: the first signature is a reply. -/
theorem test_handshake_matches_first :
    reaches (exec (.rxByte 0x51) hsFirstSignatureButLast) (fun t => t.result = 17 ∧ t.statusWord = 0x00001120) := by decide
/-- HS-17: the smallest size that can match. -/
theorem test_handshake_matches :
    reaches (exec (.rxByte 0x70) hsSignatureButLast) (fun t => t.result = 16 ∧ t.statusWord = 0x00001120) := by decide
/-- HS-03: a frame that matches nothing starts the retry delay. -/
theorem test_handshake_retries :
    reaches (exec (.rxByte 0xBB) hsLastByteMissing)
      (fun t => t.statusWord = 0x00000015 ∧ t.events.getLast? = some .delayStart) := by decide
/-- A row of the table, placed as the next input after reset, runs. -/
theorem test_withFetchWord :
    reaches ((step (State.reset.withFetchWord 40 0x500000000)))
      (fun t => t.seq = .hsWa ∧ t.events = [.flush]) := by decide

/-! ### Witnesses: a state and operands for the hypotheses of each statement, one for each clause -/

/-- The invariant of a state that is written out. -/
theorem inv_of_parts {s : State} (h1 : ConfigOk s) (h2 : MemoryOk s) (h3 : CapacityOk s) (h4 : ReadOk s) (h5 : WriteOk s)
    (h6 : FlagsOk s) : Inv s := ⟨h1, h2, h3, h4, h5, h6⟩

theorem midFrame_inv : Inv midFrame :=
  inv_of_parts (by unfold ConfigOk; decide) (by unfold MemoryOk; decide) (by unfold CapacityOk; decide)
    (by unfold ReadOk Reading; decide) (by unfold WriteOk; decide) (by unfold FlagsOk; decide)

theorem unsynced_inv : Inv unsynced :=
  inv_of_parts (by unfold ConfigOk; decide) (by unfold MemoryOk; decide) (by unfold CapacityOk; decide)
    (by unfold ReadOk Reading; decide) (by unfold WriteOk; decide) (by unfold FlagsOk; decide)

theorem lastByteMissing_inv : Inv lastByteMissing :=
  inv_of_parts (by unfold ConfigOk; decide) (by unfold MemoryOk; decide) (by unfold CapacityOk; decide)
    (by unfold ReadOk Reading; decide) (by unfold WriteOk; decide) (by unfold FlagsOk; decide)

theorem hsSignatureButLast_inv : Inv hsSignatureButLast :=
  inv_of_parts (by unfold ConfigOk; decide) (by unfold MemoryOk; decide) (by unfold CapacityOk; decide)
    (by unfold ReadOk Reading; decide) (by unfold WriteOk; decide) (by unfold FlagsOk; decide)

theorem writingFromStart_inv : Inv writingFromStart :=
  inv_of_parts (by unfold ConfigOk; decide) (by unfold MemoryOk; decide) (by unfold CapacityOk; decide)
    (by unfold ReadOk Reading; decide) (by unfold WriteOk; decide) (by unfold FlagsOk; decide)

/-- The registers of a read that has stored FD 00 00 AA describe these bytes. -/
theorem lastByteMissing_described : RegistersDescribeBytes lastByteMissing := by
  have hd : declaredLength (rxBytes lastByteMissing 0 lastByteMissing.frRes.toNat) = some 0 := by decide
  have hl : (logicalBytes false (rxBytes lastByteMissing 0 lastByteMissing.frRes.toNat)).length = 4 := by decide
  intro _
  refine ⟨by decide, by decide, by decide, ?_, ?_, by decide, by decide⟩
  · intro n h
    rw [hd] at h
    exact Option.some.inj h
  · intro b c h
    rw [h] at hl
    simp at hl

theorem witness_EncodedInstructionDecodesBack :
    (Instr.data 0xFB).wellFormed = true ∧ (Instr.rxFail 0).wellFormed = true ∧
      (Instr.rxFail 0x80000000).wellFormed = true ∧ (Instr.txFail 0x80000000).wellFormed = true ∧
      (Instr.busWrW 0x3FFFF 0xFFFFFFFF).wellFormed = true := by decide

theorem witness_DecodedInstructionReencodes :
    decode (.wire8 0xFE) = .ok (.data 0xFE) ∧ decode (.cmd32 0x2000FFFF) = .ok (.frStart 0xFFFF) ∧
      decode (.ev36 0x200000000) = .ok (.rxFail 0) ∧
      decode (.bus53 0x0BFFFFFFFFFFFF) = .ok (.busRdW 0x3FFFF) := by decide

theorem witness_EventRecordReservedExactly :
    decode (.ev36 0x600000000) = .error (.reservedEvent .reservedKind) ∧
      ConfigOk { midFrame with pending := [.ev36 0x600000000, .ev36 0xF00000000] } := by
  unfold ConfigOk; decide

theorem witness_StepRunsTheDecodedInstruction :
    ConfigOk { unsynced with pending := [.ev36 0x1000000FD, .ev36 0xF00000000] } ∧
      decode (.ev36 0x1000000FD) = .ok (.rxByte 0xFD) := by unfold ConfigOk; decide

theorem witness_WaitsAndRefusals :
    (ConfigOk State.reset ∧ State.reset.pending = []) ∧
      ¬ ConfigOk { State.reset with cfg := ⟨64, 256, 65⟩ } ∧
      (ConfigOk { State.reset with pending := [.ev36 0x600000000] } ∧
        decode (.ev36 0x600000000) = .error (.reservedEvent .reservedKind)) ∧
      (writing.awaitsRx = false ∧ Receives .esc 0xFC) ∧ (midFrame.awaitsTx = false ∧ delaying.awaitsTx = false) ∧
      State.reset.awaitsTimer = false := by
  unfold ConfigOk Receives; decide

theorem witness_ReservedWidthRaisesBusErr :
    ConfigOk { State.reset with pending := [.bus53 0x04000000000000] } ∧
      (0x04000000000000#53).toNat / 2 ^ 50 % 4 = 1 ∧ (0x0C000000000000#53).toNat / 2 ^ 50 % 4 = 3 ∧
      (0x1C000000000000#53).toNat / 2 ^ 50 % 4 = 3 ∧ (0x1C000000000000#53).toNat / 2 ^ 52 = 1 ∧
      (0x0C000000000000#53).toNat / 2 ^ 52 = 0 := by unfold ConfigOk; decide

theorem witness_IllegalCommandRaisesIllegalCmd :
    IllegalWord 0x0FFFFFFF ∧ IllegalWord 0x40000001 ∧ IllegalWord 0x20010000 ∧ IllegalWord 0x50000000 ∧
      ¬ IllegalWord 0x4000_0000 ∧ ConfigOk { midFrame with pending := [.cmd32 0x50000000] } := by
  unfold ConfigOk IllegalWord; decide

theorem witness_CommandWriteRunsTheCommand :
    decodeCmd 0x10000000 = .ok .hsStart ∧ decodeCmd 0x20000000 = .ok (.frStart 0) ∧
      decodeCmd 0x3000FFFF = .ok (.waStart 0xFFFF) ∧ decodeCmd 0x40000000 = .ok .cancel := by decide

theorem witness_StartCommandsAreRefused :
    (midFrame.seq ≠ .idle ∧ writing.seq ≠ .idle ∧ delaying.seq ≠ .idle) ∧
      (State.reset.seq = .idle ∧ State.reset.cfg.rxBufCap < (257 : Half).toNat) ∧
      State.reset.cfg.txBufCap < (0xFFFF : Half).toNat ∧
      ((256 : Half).toNat ≤ State.reset.cfg.rxBufCap ∧ (0 : Half).toNat ≤ State.reset.cfg.txBufCap) := by decide

theorem witness_CancelIsLatchedInAHandshake :
    hsWriting.seq = .hsWa ∧ hsReading.seq = .hsFr ∧ delaying.seq = .hsDelay ∧ State.reset.seq = .idle ∧
      midFrame.seq = .fr ∧ writing.seq = .wa := by decide

theorem witness_StartsFromIdle :
    State.reset.seq = .idle ∧ (1 : Half) ≠ 0 ∧ (1 : Half).toNat ≤ State.reset.cfg.rxBufCap ∧
      (256 : Half) ≠ 0 ∧ (256 : Half).toNat ≤ State.reset.cfg.rxBufCap ∧
      (256 : Half).toNat ≤ State.reset.cfg.txBufCap := by decide

theorem witness_SyncByteRestartsTheFrame :
    Receives .sync Config.sync ∧ Receives (.rxByte 0xFD) Config.sync ∧ ConfigOk midFrame ∧ Reading midFrame ∧
      midFrame.frBufsize ≠ 1 ∧ Reading hsReading ∧ Reading { unsynced with frBufsize := 1, frCnt := 1 } := by
  unfold ConfigOk Reading Receives; decide

theorem witness_NonSyncFirstByteEndsTheRead :
    Receives (.data 0x00) 0x00 ∧ Receives .esc 0xFC ∧ (0xFC : Byte) ≠ Config.sync ∧ Reading unsynced ∧ unsynced.frRes = 0 ∧
      Reading hsReading ∧ hsReading.frRes = 0 := by
  unfold Reading Receives; decide

theorem witness_CountedByteIsStoredRaw :
    Receives (.data 0x22) 0x22 ∧ (0x22 : Byte) ≠ Config.sync ∧ ConfigOk midFrame ∧ Reading midFrame ∧ midFrame.frRes ≠ 0 ∧
      midFrame.frRes.toNat < midFrame.cfg.rxBufCap ∧ Reading hsSignatureButLast ∧ hsSignatureButLast.frRes ≠ 0 := by
  unfold ConfigOk Reading Receives; decide

theorem witness_EscapeMarkerIsCounted :
    Receives .esc Config.esc ∧ Receives (.rxByte 0xFC) Config.esc ∧ ConfigOk afterMarker ∧ Reading afterMarker ∧
      afterMarker.frRes ≠ 0 ∧ afterMarker.frRes.toNat < afterMarker.cfg.rxBufCap := by
  unfold ConfigOk Reading Receives; decide

/-- The length known, position 2, position 3, and neither: the last in a state no run reaches. -/
theorem witness_LengthIsFoldedFromLogicalBytes :
    (Receives (.data 0x7D) 0x7D ∧ (0x7D : Byte) ≠ Config.sync ∧ (0x7D : Byte) ≠ Config.esc) ∧
      (ConfigOk midFrame ∧ Reading midFrame ∧ midFrame.frRes ≠ 0 ∧ midFrame.frHaveLen = true) ∧
      (Reading onlySync ∧ onlySync.frHaveLen = false ∧ onlySync.frRes.toNat + 1 = onlySync.frEscCnt.toNat + 2) ∧
      (Reading afterMarker ∧ afterMarker.frHaveLen = false ∧ afterMarker.frEscFlag = true ∧
        afterMarker.frRes.toNat + 1 = afterMarker.frEscCnt.toNat + 3) ∧
      (Reading { onlySync with frEscCnt := 1 } ∧ onlySync.frRes.toNat + 1 ≠ 1 + 2 ∧ onlySync.frRes.toNat + 1 ≠ 1 + 3) := by
  unfold ConfigOk Reading Receives; decide

/-- The frame complete, the buffer full, and neither. -/
theorem witness_StandaloneReadEndsInOrder :
    (Receives (.data 0xBB) 0xBB ∧ ConfigOk lastByteMissing ∧ lastByteMissing.seq = .fr ∧ lastByteMissing.frRes ≠ 0 ∧
        lastByteMissing.frRes.toNat < lastByteMissing.cfg.rxBufCap ∧
        reaches (exec (.data 0xBB) lastByteMissing) (fun t => t.cause = .ok)) ∧
      (oneByteLeft.seq = .fr ∧ oneByteLeft.frRes ≠ 0 ∧
        reaches (exec (.data 0xBB) oneByteLeft) (fun t => t.cause = .capacity ∧ t.frCnt = 0)) ∧
      reaches (exec (.data 0xBB) midFrame) (fun t => t.seq = .fr ∧ t.frCnt ≠ 0) := by
  unfold ConfigOk Receives; decide

/-- A reply, a limit, a retry, and a read that goes on. -/
theorem witness_HandshakeReadIsJudged :
    (Receives (.data 0x70) 0x70 ∧ ConfigOk hsSignatureButLast ∧ hsSignatureButLast.seq = .hsFr ∧
        hsSignatureButLast.frRes ≠ 0 ∧ hsSignatureButLast.frRes.toNat < hsSignatureButLast.cfg.rxBufCap ∧
        reaches (exec (.data 0x70) hsSignatureButLast) (fun t => t.cause = .ok)) ∧
      reaches (exec (.data 0x70) { hsLastByteMissing with hsLimit := 1 }) (fun t => t.cause = .limit) ∧
      reaches (exec (.data 0x70) { hsLastByteMissing with hsLimit := 2 }) (fun t => t.seq = .hsDelay) ∧
      reaches (exec (.data 0x70) hsLastByteMissing) (fun t => t.seq = .hsDelay) ∧
      reaches (exec .sync hsReading) (fun t => t.seq = .hsFr) := by
  unfold ConfigOk Receives; decide

theorem witness_DumpExactlyWhenAReadEnds :
    ConfigOk lastByteMissing ∧ Reading { lastByteMissing with debugEn := true } ∧
      reaches (exec (.data 0xBB) { lastByteMissing with debugEn := true })
        (fun t => t.events = [.dump [0xFD, 0x00, 0x00, 0xAA, 0xBB] 5]) ∧
      reaches (exec (.data 0xBB) lastByteMissing) (fun t => t.events = []) ∧
      reaches (exec (.data 0xBB) { hsLastByteMissing with debugEn := true, events := [] })
        (fun t => t.events = [.dump [0xFD, 0x00, 0x00, 0xAA, 0xBB] 5, .delayStart]) := by
  unfold ConfigOk Reading; decide

theorem witness_ReadFailureEndsTheRead :
    (Instr.rxFail 0).wellFormed = true ∧ (Instr.rxFail 0xFFFFFFFF).wellFormed = true ∧ Reading midFrame ∧
      Reading hsReading := by
  unfold Reading; decide

/-- A byte that ends the read and one that does not, the second with CAUSE still SYNC_ERR of an earlier operation. -/
theorem witness_NoSyncErrorOnceSynced :
    (Inv lastByteMissing ∧ Reading lastByteMissing ∧ lastByteMissing.frRes ≠ 0 ∧ Receives (.data 0xBB) 0xBB ∧
      reaches (exec (.data 0xBB) lastByteMissing) (fun t => t.done = true ∧ t.cause = .ok) = true) ∧
    (Inv { midFrame with cause := .syncErr, lastOp := .fr } ∧ Receives (.data 0x00) 0x00 ∧
      reaches (exec (.data 0x00) { midFrame with cause := .syncErr, lastOp := .fr })
        (fun t => t.done = false ∧ t.cause = .syncErr) = true) :=
  ⟨⟨lastByteMissing_inv, .inl rfl, by decide, .inr (by decide), by decide⟩,
    inv_of_parts (by unfold ConfigOk; decide) (by unfold MemoryOk; decide) (by unfold CapacityOk; decide)
      (by unfold ReadOk Reading; decide) (by unfold WriteOk; decide) (by unfold FlagsOk; decide),
    .inr (by decide), by decide⟩

theorem witness_SyncByteForgetsTheEarlierAttempt :
    Receives .sync Config.sync ∧ Reading midFrame ∧ Reading hsReading := by
  unfold Receives Reading; decide

theorem witness_CompletedReadIsOneWholeFrame :
    Inv lastByteMissing ∧ RegistersDescribeBytes lastByteMissing ∧ lastByteMissing.seq = .fr ∧ Receives (.data 0xBB) 0xBB ∧
      reaches (exec (.data 0xBB) lastByteMissing) (fun t => t.done = true ∧ t.cause = .ok) = true :=
  ⟨lastByteMissing_inv, lastByteMissing_described, rfl, .inr (by decide), by decide⟩

/-- An empty payload and one of a byte, with the smallest buffer that holds it. -/
theorem witness_PlainFrameIsReadBack :
    Inv unsynced ∧ unsynced.seq = .fr ∧ unsynced.frRes = 0 ∧ [(0x55 : Byte)].length + 5 ≤ unsynced.frBufsize.toNat ∧
      (∀ b ∈ (plainFrame [0x55] 0xEE 0xEE).tail, b ≠ Config.sync ∧ b ≠ Config.esc) ∧
      (∀ b ∈ (plainFrame [] 0xAA 0xBB).tail, b ≠ Config.sync ∧ b ≠ Config.esc) ∧
      plainFrame [0x55] 0xEE 0xEE = [0xFD, 0x00, 0x01, 0x55, 0xEE, 0xEE] :=
  ⟨unsynced_inv, by decide, by decide, by decide, by decide, by decide, by decide⟩

/-- The same with the records to come placed. -/
theorem witness_PlainFrameIsReadBack_pending :
    Inv { unsynced with pending := (plainFrame [0x55] 0xEE 0xEE).map (fun b => encode (.rxByte b)) ++ [] } :=
  inv_of_parts (by unfold ConfigOk; decide) (by unfold MemoryOk; decide) (by unfold CapacityOk; decide)
    (by unfold ReadOk Reading; decide) (by unfold WriteOk; decide) (by unfold FlagsOk; decide)

theorem witness_AcknowledgedBytesAreSent :
    (writing.seq = .wa ∧ WriteOk writing ∧ (5 : Word).toNat ≤ txOffered writing ∧ (4 : Word).toNat < txOffered writing) ∧
      (hsWriting.seq = .hsWa ∧ WriteOk hsWriting ∧ (8 : Word).toNat ≤ txOffered hsWriting) := by
  unfold WriteOk; decide

/-- A standalone write, a handshake, and a handshake that reads with size 0. -/
theorem witness_LastAcknowledgementEndsTheWrite :
    (ConfigOk writing ∧ WriteOk writing ∧ (5 : Word).toNat = txOffered writing ∧ writing.seq = .wa) ∧
      (ConfigOk hsWriting ∧ WriteOk hsWriting ∧ (8 : Word).toNat = txOffered hsWriting ∧ hsWriting.cfg.hsBufSize ≠ 0) ∧
      (ConfigOk { hsWriting with cfg := ⟨256, 256, 0⟩ } ∧ WriteOk { hsWriting with cfg := ⟨256, 256, 0⟩ } ∧
        hsWriting.seq = .hsWa) := by
  unfold ConfigOk WriteOk; decide

theorem witness_OverAcknowledgementRaisesTxOverack :
    writing.seq = .wa ∧ txOffered writing < (6 : Word).toNat ∧ hsWriting.seq = .hsWa ∧
      txOffered hsWriting < (0xFFFFFFFF : Word).toNat := by decide

theorem witness_ZeroAcknowledgementChangesNothing :
    writing.seq = .wa ∧ WriteOk writing ∧ hsWriting.seq = .hsWa ∧ WriteOk hsWriting := by
  unfold WriteOk; decide

theorem witness_WriteFailureEndsTheWrite : writing.seq = .wa ∧ hsWriting.seq = .hsWa := by decide

/-- K = 3: three responses for eight bytes. -/
theorem witness_WriteAllTakesCeilingOfLengthOverK :
    Inv writingFromStart ∧ writingFromStart.seq = .wa ∧ writingFromStart.waOff = 0 ∧
      (List.range ((writingFromStart.waLen.toNat + 3 - 1) / 3)).map
        (fun j => encode (.txAck (BitVec.ofNat 32 (min 3 (writingFromStart.waLen.toNat - j * 3))))) =
        [.ev36 0x300000003, .ev36 0x300000003, .ev36 0x300000002] :=
  ⟨writingFromStart_inv, by decide, by decide, by decide⟩

theorem witness_WriteAllTakesCeilingOfLengthOverK_pending :
    Inv { writingFromStart with pending := [.ev36 0x300000003, .ev36 0x300000003, .ev36 0x300000002] } :=
  inv_of_parts (by unfold ConfigOk; decide) (by unfold MemoryOk; decide) (by unfold CapacityOk; decide)
    (by unfold ReadOk Reading; decide) (by unfold WriteOk; decide) (by unfold FlagsOk; decide)

theorem witness_DelayDoneCancelsOrRetries :
    delaying.seq = .hsDelay ∧ delaying.cancelPending = false ∧
      { delaying with cancelPending := true }.cancelPending = true := by decide

theorem witness_ShortReplyBufferNeverMatches :
    Inv hsSignatureButLast ∧ hsSignatureButLast.seq = .hsFr ∧ hsSignatureButLast.frBufsize.toNat ≤ 16 ∧
      Receives (.data 0x70) 0x70 ∧
      reaches (exec (.data 0x70) hsSignatureButLast) (fun t => t.done = true ∧ t.cause = .ok) = true :=
  ⟨hsSignatureButLast_inv, by decide, by decide, .inr (by decide), by decide⟩

theorem witness_RegisterWritesStoreOrRaiseBusErr :
    (0x08 : HostAddr) ∈ ([0x08, 0x14, 0x18, 0x1C, 0x20, 0x24] : List HostAddr) ∧
      (0x24 : HostAddr) ∈ ([0x08, 0x14, 0x18, 0x1C, 0x20, 0x24] : List HostAddr) := by decide

/-- Misaligned inside the registers, just past them, a buffer, and the last address. -/
theorem witness_UnmappedWordAccessRaisesBusErr :
    ([0x00002, 0x00025, 0x00028, 0x10000, 0x20004, 0x3FFFF] : List HostAddr).all
      (fun a => decide (¬ (a.toNat % 4 = 0 ∧ a.toNat ≤ 0x24))) = true := by
  decide

/-- The first and last byte of each window, and the addresses beside them. -/
theorem witness_ByteReadsReturnTheBuffers :
    ConfigOk midFrame ∧ (0x10000 : HostAddr).toNat = 0x10000 + 0 ∧ (0x100FF : HostAddr).toNat = 0x10000 + 255 ∧
      255 < midFrame.cfg.rxBufCap ∧ (0x20000 : HostAddr).toNat = 0x20000 + 0 ∧ (0x200FF : HostAddr).toNat = 0x20000 + 255 ∧
      255 < midFrame.cfg.txBufCap := by
  unfold ConfigOk; decide

theorem witness_ByteReadsReturnTheBuffers_elsewhere :
    ∀ a ∈ ([0x00004, 0x0FFFF, 0x10100, 0x1FFFF, 0x20100, 0x3FFFF] : List HostAddr),
      (∀ i, a.toNat = 0x10000 + i → State.reset.cfg.rxBufCap ≤ i) ∧
        (∀ i, a.toNat = 0x20000 + i → State.reset.cfg.txBufCap ≤ i) := by
  have hr : State.reset.cfg.rxBufCap = 256 := rfl
  have ht : State.reset.cfg.txBufCap = 256 := rfl
  rw [hr, ht]
  intro a ha
  have h : a.toNat < 0x10000 ∨ (0x10100 ≤ a.toNat ∧ a.toNat < 0x20000) ∨ 0x20100 ≤ a.toNat := by
    have hall : ([0x00004, 0x0FFFF, 0x10100, 0x1FFFF, 0x20100, 0x3FFFF] : List HostAddr).all (fun a =>
        decide (a.toNat < 0x10000 ∨ (0x10100 ≤ a.toNat ∧ a.toNat < 0x20000) ∨ 0x20100 ≤ a.toNat)) = true := by decide
    simpa using List.all_eq_true.mp hall a ha
  constructor <;> intro i hi <;> omega

/-- Stored in IDLE and in HS_WA, refused in WA, and no byte of TXBUF. -/
theorem witness_ByteWritesReachTxbufOnly :
    (ConfigOk State.reset ∧ (0x200FF : HostAddr).toNat = 0x20000 + 255 ∧ 255 < State.reset.cfg.txBufCap ∧
        State.reset.seq ≠ .wa ∧ hsWriting.seq ≠ .wa) ∧
      (ConfigOk writing ∧ writing.seq = .wa ∧ 255 < writing.cfg.txBufCap) := by
  unfold ConfigOk; decide

theorem witness_ByteWritesReachTxbufOnly_elsewhere :
    ∀ i, (0x20100 : HostAddr).toNat = 0x20000 + i → State.reset.cfg.txBufCap ≤ i := by
  intro i h
  have h' : (0x20100 : HostAddr).toNat = 0x20100 := by decide
  have ht : State.reset.cfg.txBufCap = 256 := rfl
  omega

theorem witness_OnlyResetClearsFault :
    reaches (exec (.busWrW 0x00004 0xFFFFFFFF) faulted) (fun t => t.fault = true) = true ∧ faulted.fault = true ∧
      (Instr.busWrW 0x00004 0xFFFFFFFF) ≠ .reset := by decide

theorem witness_FaultingStepChangesNothingElse :
    reaches (exec (.busRdW 0x00028) midFrame) (fun t => t.fault = true) = true ∧ midFrame.fault = false := by decide

theorem witness_HistoryOnlyGrows :
    reaches (exec .reset writing) (fun t => t.events = writing.events) = true ∧
      reaches (step { writing with pending := [.ev36 0x300000005] }) (fun t => t.events = [.tx [1, 2, 3], .tx [4, 5, 6, 7, 8]]) =
        true := by decide

/-- A step of each kind the rule names. -/
theorem witness_ControlChangesOnlyByTheHost :
    reaches (exec (.busWrW 0x0000C 1) State.reset) (fun t => t.debugEn = true) = true ∧
      reaches (exec (.busWrW 0x00010 1) State.reset) (fun t => t.hsLimit = 1) = true ∧
      reaches (exec .sync midFrame) (fun t => t.debugEn = false) = true := by decide

theorem witness_TxbufChangesOnlyByTheHost :
    reaches (exec (.busWrB 0x200FF 7) State.reset) (fun t => t.txbuf = [(255, 7)]) = true ∧
      reaches (exec (.txAck 1) writing) (fun t => t.txbuf = writing.txbuf) = true := by decide

/-- An operation that was running ends, one of size 0 ends as it starts, by either spelling, and a host access in IDLE with
DONE = 1 keeps the outcome. -/
theorem witness_OutcomeChangesOnlyAtAnEnd :
    (reaches (exec (.txAck 5) writing) (fun t => t.cause = .ok) = true ∧ writing.seq ≠ .idle ∧ Instr.txAck 5 ≠ .reset) ∧
      (reaches (exec (.frStart 0) State.reset) (fun t => t.cause = .capacity) = true ∧ StartsEmpty (.frStart 0)) ∧
      (reaches (exec (.busWrW 0x00000 0x30000000) State.reset) (fun t => t.cause = .ok) = true ∧
        StartsEmpty (.busWrW 0x00000 0x30000000)) ∧
      reaches (exec (.busWrW 0x0000C 3) { State.reset with done := true, cause := .ok, lastOp := .fr, result := 5 })
        (fun t => t.done = true ∧ t.cause = .ok ∧ t.lastOp = .fr ∧ t.result = 5) = true :=
  ⟨by decide, ⟨by decide, .inl (.inl rfl)⟩, ⟨by decide, .inr (.inr ⟨_, rfl, by decide⟩)⟩, by decide⟩

theorem witness_ReturnToIdleIsAnEnd :
    reaches (exec (.txAck 5) writing) (fun t => t.seq = .idle) = true ∧ writing.seq ≠ .idle := by decide

/-- FR-12 as a run: its launch, straight from power-on, by a command word. -/
theorem witness_ReturnToIdleIsAnEnd_launch : Launch launchedEmptyRead (.frStart 0) ∧ Safe launchedEmptyRead where
  left := {
    booted := ⟨Config.reference, [.cmd32 0x20000000], 0, by decide, rfl⟩
    idle := rfl
    start := .inr ⟨0, .inl rfl⟩
    loaded := fun _ h => Instr.noConfusion h
    command := ⟨_, [], rfl, 0x20000000, by decide, .inr rfl⟩ }
  right := rfl

/-- FR-12: the run ends in the command's own step. -/
theorem witness_ReturnToIdleIsAnEnd_empty : ∃ t, RunEndsAt launchedEmptyRead 1 t ∧ t.cause = .capacity :=
  ⟨_, {
    positive := by decide
    reached := rfl
    ended := ⟨rfl, rfl⟩
    first := fun _ _ h h' => absurd h (by omega)
    safe := fun j u hj h => by
      have all : ∀ j ≤ 1, reaches (Host.Core.run core j launchedEmptyRead) (fun u => !u.fault) = true := by decide
      simpa [Safe] using of_reaches (all j hj) h
    unreset := by decide }, rfl⟩

/-- A write of one byte as a run: its launch, after one host write to TXBUF, by the host's word write. -/
theorem witness_ReturnToIdleIsAnEnd_written : Launch launchedWrite (.waStart 1) where
  booted := ⟨Config.reference, [.bus53 0x120000000000FD, .bus53 0x18000030000001, .ev36 0x300000001], 1, by decide, rfl⟩
  idle := rfl
  start := .inr ⟨1, .inr rfl⟩
  loaded := fun n h k hk => by
    cases h
    have h0 : k = 0 := by simpa using hk
    subst h0
    decide
  command := ⟨_, [.ev36 0x300000001], rfl, 0x30000001, by decide, .inl (by decide)⟩

/-- The run ends at its acknowledgement, and what it shows. -/
theorem witness_ReturnToIdleIsAnEnd_run : ∃ t, RunEndsAt launchedWrite 2 t ∧
    observe launchedWrite t =
      { result := 1, status := 0x00001320, registers := [0, 0, 0, 0x00010001], received := rxBytes t 0 1,
        emitted := [.tx [0xFD]] } :=
  ⟨_, {
    positive := by decide
    reached := rfl
    ended := ⟨rfl, rfl⟩
    first := fun j u h h' e hu => by
      have one : reaches (Host.Core.run core 1 launchedWrite) (fun u => u.seq = .wa) = true := by decide
      obtain rfl : j = 1 := by omega
      have hw := of_reaches one e
      simp [hu.1] at hw
    safe := fun j u hj h => by
      have all : ∀ j ≤ 2, reaches (Host.Core.run core j launchedWrite) (fun u => !u.fault) = true := by decide
      simpa [Safe] using of_reaches (all j hj) h
    unreset := by decide }, rfl⟩

theorem witness_StepKeepsBuffersCanonical :
    MemoryOk { midFrame with pending := [.ev36 0x100000022] } ∧
      reaches (step { midFrame with pending := [.ev36 0x100000022] }) (fun t => t.rxbuf.length = 5) = true := by
  unfold MemoryOk; decide

theorem witness_StepKeepsInvariant :
    Inv midFrame ∧ Inv hsSignatureButLast ∧ Inv writingFromStart :=
  ⟨midFrame_inv, hsSignatureButLast_inv, writingFromStart_inv⟩

theorem witness_StepKeepsInvariant_step :
    reaches (step { midFrame with pending := [.ev36 0x100000022] }) (fun t => t.frRes = 5) = true := by decide

theorem reset_config_wellFormed : Config.wellFormed Config.reference = true := by decide

theorem reset_inv : Inv State.reset :=
  inv_of_parts (by unfold ConfigOk; decide) (by unfold MemoryOk; decide) (by unfold CapacityOk; decide)
    (by unfold ReadOk Reading; decide) (by unfold WriteOk; decide) (by unfold FlagsOk; decide)

theorem witness_StepKeepsOutcomeTable :
    OutcomeOk { lastByteMissing with pending := [.ev36 0x1000000BB] } ∧
      reaches (step { lastByteMissing with pending := [.ev36 0x1000000BB] }) (fun t => t.cause = .ok ∧ t.result = 5) =
        true := by
  refine ⟨?_, by decide⟩
  show LastOp.none = .none ∧ (0 : Word) = 0
  decide

theorem witness_StepKeepsRegistersDescribeBytes :
    Inv lastByteMissing ∧ RegistersDescribeBytes lastByteMissing ∧
      reaches (step { lastByteMissing with pending := [.ev36 0x1000000FD] }) (fun t => t.frRes = 1) = true :=
  ⟨lastByteMissing_inv, lastByteMissing_described, by decide⟩

theorem witness_StepKeepsHandshakeSendsCommand :
    WriteOk hsWriting ∧ HandshakeSendsCommand hsWriting ∧
      reaches (step { hsWriting with pending := [.ev36 0x300000008] })
        (fun t => t.seq = .hsFr ∧ t.events = [.flush, .tx Config.romCmd]) = true := by
  unfold WriteOk HandshakeSendsCommand; decide

end Sys2Proof.Tests
end

section
/-! SUPPORT. How an operation goes on and ends: what the ends of reads and writes, the starts and every move of CORE do to
`state` and to RESULT, CAUSE and LAST_OP. -/

namespace Sys2Proof.Machine
open Sys2Proof.Safety

/-- The operation a state runs, as LAST_OP will name it; none in IDLE (10_state.md R21, R24). -/
def Seq.op : Seq → LastOp
  | .idle => .none
  | .fr => .fr
  | .wa => .wa
  | .hsWa | .hsFr | .hsDelay => .hs

theorem Seq.op_eq_none_iff (q : Seq) : q.op = .none ↔ q = .idle := by cases q <;> decide

/-- The operation `op` has ended; if `legal` holds, its outcome is one of the table of outcomes. -/
structure Ended (op : LastOp) (legal : Prop) (t : State) : Prop where
  idle : t.seq = .idle
  done : t.done = true
  noCancel : t.cancelPending = false
  lastOp : t.lastOp = op
  outcome : legal → OutcomeOk t

/-- The operation `op` is running at `t` with the outcome of `s` kept, or it has ended there. -/
inductive Goes (op : LastOp) (legal : Prop) (s t : State) : Prop where
  | running (same : SameOutcome s t) (hop : t.seq.op = op)
  | ended (h : Ended op legal t)

theorem ended_endOp {p : Prop} (op : LastOp) (r : Word) (c : Cause) (s : State)
    (h : p → OutcomeOk (endOp op r c s)) : Ended op p (endOp op r c s) := ⟨rfl, rfl, rfl, rfl, h⟩

theorem Ended.mono {op : LastOp} {p q : Prop} {t : State} (h : Ended op p t) (hq : q → p) : Ended op q t :=
  { h with outcome := fun hp => h.outcome (hq hp) }

theorem Goes.mono {op : LastOp} {p q : Prop} {s t : State} (h : Goes op p s t) (hq : q → p) : Goes op q s t := by
  cases h with
  | running same hop => exact .running same hop
  | ended h => exact .ended (h.mono hq)

/-- Only the outcome a state shows before the operation matters. -/
theorem Goes.of_same {op : LastOp} {p : Prop} {s s' t : State} (h : Goes op p s' t) (same : SameOutcome s s') :
    Goes op p s t := by
  cases h with
  | running h hop =>
    obtain ⟨hr, hc, hl⟩ := h
    obtain ⟨hr', hc', hl'⟩ := same
    exact .running ⟨hr.trans hr', hc.trans hc', hl.trans hl'⟩ hop
  | ended h => exact .ended h

/-! ### The procedures -/

/-- A reply of the bootloader is at least 16 bytes long (43_handshake.md R196). -/
theorem le_of_isBootloaderReply {s : State} {n : Nat} (h : isBootloaderReply s n = true) : 16 ≤ n := by
  have h1 : Config.romSig1.length = 17 := rfl
  have h2 : Config.romSig2.length = 16 := rfl
  simp only [isBootloaderReply, matchesSignature, Bool.or_eq_true, Bool.and_eq_true, decide_eq_true_eq] at h
  omega

/-- What a handshake makes of the outcome of its read: an outcome of a FrameReader's row gives one of the handshake's. -/
theorem goes_hsAfterRead (r : Word) (c : Cause) (s : State) :
    Goes .hs (OutcomeOk (endOp .fr r c s)) s (hsAfterRead r c s) := by
  rcases hsAfterRead_cases r c s with ⟨hr, e⟩ | ⟨hr, hb, e⟩ | ⟨-, -, -, e⟩ | ⟨-, -, -, e⟩ <;> rw [e]
  · refine .ended (ended_endOp _ _ _ _ fun h => ?_)
    cases c <;> simp_all [OutcomeOk]
    · omega
    · exact BitVec.eq_of_toInt_eq (by simp; omega)
  · refine .ended (ended_endOp _ _ _ _ fun h => ?_)
    have := le_of_isBootloaderReply hb
    have hn : (r.toNat : Int) = r.toInt := by rw [BitVec.toInt_eq_toNat_cond] at *; split at * <;> omega
    cases c <;> simp_all [OutcomeOk] <;> omega
  · exact .ended (ended_endOp _ _ _ _ fun _ => ⟨rfl, rfl⟩)
  · exact .running ⟨rfl, rfl, rfl⟩ rfl

/-- What the end of a read does. -/
theorem goes_frEnd {s : State} (h : Reading s) (r : Word) (c : Cause) :
    Goes s.seq.op (OutcomeOk (endOp .fr r c s)) s (frEnd r c s) := by
  rcases h with h | h <;> rw [h]
  · rw [frEnd_of_fr h]
    exact .ended (ended_endOp _ _ _ _ id)
  · rw [frEnd_of_hsFr h]
    refine (goes_hsAfterRead r c (forgetAtEnd r (dumpAtEnd r s))).of_same ⟨?_, ?_, ?_⟩ <;> simp

theorem goes_beginFr {mode : Seq} (hm : mode = .fr ∨ mode = .hsFr) (n : Half) (s : State) :
    Goes mode.op True s (beginFr n mode s) := by
  by_cases hn : n = 0
  · subst hn
    rw [beginFr_zero]
    have g := goes_frEnd (s := frOpen 0 mode s) hm 0 .capacity
    exact (g.mono fun _ => .inl ⟨rfl, by simp, by simp⟩).of_same ⟨rfl, rfl, rfl⟩
  · rw [beginFr_of_pos hn]
    exact .running ⟨rfl, rfl, rfl⟩ rfl

/-- What a handshake does after its write. -/
theorem goes_hsAfterWrite (r : Word) (c : Cause) (s : State) :
    Goes .hs (OutcomeOk (endOp .wa r c s)) s (hsAfterWrite r c s) := by
  unfold hsAfterWrite
  split
  · exact (goes_beginFr (.inr rfl) _ s).mono fun _ => trivial
  · refine .ended (ended_endOp _ _ _ _ fun h => ?_)
    cases c <;> simp_all [OutcomeOk]

/-- What the end of a write does. -/
theorem goes_waEnd {s : State} (h : s.seq = .wa ∨ s.seq = .hsWa) (r : Word) (c : Cause) :
    Goes s.seq.op (OutcomeOk (endOp .wa r c s)) s (waEnd r c s) := by
  rcases h with h | h <;> rw [h]
  · rw [waEnd_of_wa h]
    exact .ended (ended_endOp _ _ _ _ id)
  · rw [waEnd_of_hsWa h]
    exact goes_hsAfterWrite ..

/-- A write that has sent its whole length ends within the table. -/
theorem outcomeOk_waEnd_ok (n : Half) (s : State) : OutcomeOk (endOp .wa (0#16 ++ n) .ok s) := by
  have := n.isLt
  have := toInt_zeroExtend16 n
  exact ⟨.inr (.inl ⟨rfl, by simp; omega⟩), by simp; omega⟩

theorem goes_beginWa (n : Half) (s : State) : Goes .wa True s (beginWa n .wa s) := by
  by_cases hn : n = 0
  · subst hn
    rw [beginWa_zero]
    have g := goes_waEnd (s := waOpen 0 .wa s) (.inl rfl) 0 .ok
    exact (g.mono fun _ => outcomeOk_waEnd_ok 0 s).of_same ⟨rfl, rfl, rfl⟩
  · rw [beginWa_of_pos hn]
    exact .running ⟨rfl, rfl, rfl⟩ rfl

/-- What the tests after the store do. -/
theorem goes_frContinue {s : State} (h : Reading s) : Goes s.seq.op True s (frContinue s) := by
  have hlt := s.frRes.isLt
  have hi := toInt_zeroExtend16 s.frRes
  rcases frContinue_cases s with ⟨hc, e⟩ | ⟨-, -, e⟩ | ⟨-, -, e⟩ <;> rw [e]
  · rw [frComplete_iff] at hc
    exact (goes_frEnd h ..).mono fun _ => ⟨.inl ⟨rfl, by simp; omega⟩, by simp; omega⟩
  · exact (goes_frEnd h ..).mono fun _ => .inl ⟨rfl, by simp; omega, by simp; omega⟩
  · exact .running ⟨rfl, rfl, rfl⟩ rfl

/-- What a counted byte does. -/
theorem goes_counted {s : State} (h : Reading s) (b : Byte) : Goes s.seq.op True s (frContinue (frCounted b s)) := by
  have g := goes_frContinue (s := frCounted b s) (by simpa [Reading] using h)
  rw [frCounted_seq] at g
  refine g.of_same ⟨?_, ?_, ?_⟩ <;> simp

/-- What an accepted acknowledgement does. -/
theorem goes_waAccept {s : State} (h : s.seq = .wa ∨ s.seq = .hsWa) (k : Nat) :
    Goes s.seq.op True s (waAccept k s) := by
  have same : SameOutcome s (waSend k s) := ⟨by simp, by simp, by simp⟩
  unfold waAccept
  split
  · have hw := goes_waEnd (s := waSend k s) (by simpa using h) (0#16 ++ s.waLen) .ok
    rw [waSend_seq] at hw
    exact (hw.of_same same).mono fun _ => outcomeOk_waEnd_ok ..
  · exact .running same (by simp)

/-! ### The moves -/

/-- How a move changes the operation CORE runs and its outcome. -/
inductive Progress (i : Instr) (s t : State) : Prop where
  /-- nothing starts and nothing ends -/
  | stays (same : SameOutcome s t) (hop : t.seq.op = s.seq.op)
  /-- a command starts an operation that goes on -/
  | started (h : s.seq = .idle) (same : SameOutcome s t)
  /-- the running operation ends -/
  | ended (h : s.seq ≠ .idle) (he : Ended s.seq.op (i.wellFormed = true) t)
  /-- an operation of size 0 starts and ends -/
  | endedAtOnce (h : s.seq = .idle) (hi : StartsEmpty i) (he : Ended t.lastOp True t)
  | reset (hi : i = .reset)

theorem ne_idle_of_reading {s : State} (h : Reading s) : s.seq ≠ .idle := by
  rcases h with h | h <;> simp [h]

theorem ne_idle_of_writing {s : State} (h : s.seq = .wa ∨ s.seq = .hsWa) : s.seq ≠ .idle := by
  rcases h with h | h <;> simp [h]

/-- A running operation goes on or ends. -/
theorem Goes.progress {i : Instr} {p : Prop} {s t : State} (h : Goes s.seq.op p s t) (hs : s.seq ≠ .idle)
    (hp : i.wellFormed = true → p) : Progress i s t := by
  cases h with
  | running same hop => exact .stays same hop
  | ended h => exact .ended hs (h.mono hp)

/-- A start goes on but for an empty one, which ends. -/
theorem Goes.progress_start {i : Instr} {op : LastOp} {s t : State} (h : Goes op True (clearDone s) t)
    (hs : s.seq = .idle) (hi : t.seq = .idle → StartsEmpty i) : Progress i s t := by
  cases h with
  | running same _ => exact .started hs same
  | ended h => exact .endedAtOnce hs (hi h.idle) { h with lastOp := rfl }

/-- The sentinel of a write's failure record is negative. -/
theorem toInt_of_txFail {v : Word} (h : (Instr.txFail v).wellFormed = true) : v.toInt < 0 := by
  simp only [Instr.wellFormed] at h
  rw [BitVec.toInt_eq_msb_cond, if_pos h]; have := v.isLt; omega

/-- Whatever a move does to the operation and its outcome is one of these. -/
theorem Move.progress {i : Instr} {s t : State} (h : Move i s t) : Progress i s t := by
  cases h with
  | handshakeStarted _ h => exact .started h ⟨rfl, rfl, rfl⟩
  | readStarted n hi h =>
    refine (goes_beginFr (.inl rfl) n (clearDone s)).progress_start h fun ht => ?_
    by_cases hn : n = 0
    · exact .inl (hn ▸ hi)
    · rw [beginFr_of_pos hn] at ht; cases ht
  | writeStarted n hi h =>
    refine (goes_beginWa n (clearDone s)).progress_start h fun ht => ?_
    by_cases hn : n = 0
    · exact .inr (hn ▸ hi)
    · rw [beginWa_of_pos hn] at ht; cases ht
  | syncFailed h => exact (goes_frEnd h 0 .syncErr).progress (ne_idle_of_reading h) fun _ => ⟨.inl rfl, rfl⟩
  | synced h =>
    have g := goes_counted (s := frRestart s) h Config.sync
    exact (g.of_same (s := s) ⟨rfl, rfl, rfl⟩).progress (ne_idle_of_reading h) fun _ => trivial
  | counted b h => exact (goes_counted h b).progress (ne_idle_of_reading h) fun _ => trivial
  | readFailed v hi h =>
    subst hi
    exact (goes_frEnd h v .ioRead).progress (ne_idle_of_reading h) fun hw => ⟨.inl rfl, toInt_of_rxFail hw⟩
  | acknowledged k h => exact (goes_waAccept h _).progress (ne_idle_of_writing h) fun _ => trivial
  | writeFailed v hi h =>
    subst hi
    exact (goes_waEnd h v .ioWrite).progress (ne_idle_of_writing h) fun hw => ⟨.inl rfl, toInt_of_txFail hw⟩
  | delayCancelled h =>
    refine .ended (by simp [h]) ?_
    rw [h]
    exact ended_endOp _ _ _ _ fun _ => ⟨rfl, rfl⟩
  | delayEnded h => exact .stays ⟨rfl, rfl, rfl⟩ (by rw [h]; rfl)
  | wasReset hi => exact .reset hi
  | _ => exact .stays ⟨rfl, rfl, rfl⟩ rfl

end Sys2Proof.Machine
end

section
/-! The statements about the state as a whole: what reset holds, what changes CTRL, HS_LIMIT and the outcome, and the run
of an operation from its launch to its end. -/

namespace Sys2Proof.Machine
open Sys2Proof.Safety

/-! ### What a record and a command word say -/

/-- The decoder answers only instructions that some record spells. -/
theorem wellFormed_of_decode {r : Record} {i : Instr} (h : decode r = .ok i) : i.wellFormed = true := by
  cases r with
  | wire8 b =>
    simp only [decode, decodeWire, Except.ok.injEq] at h
    split at h
    · subst h; rfl
    · split at h <;> subst h <;> simp [Instr.wellFormed, *]
  | cmd32 w =>
    simp only [decode, decodeCmd_eq] at h
    split at h
    · cases h
    · (repeat' split at h) <;> cases h <;> rfl
  | ev36 e =>
    simp only [decode, decodeEvent] at h
    (repeat' split at h) <;> cases h <;> simp_all [Instr.wellFormed]
  | bus53 e =>
    simp only [decode, decodeBus] at h
    (repeat' split at h) <;> cases h <;> rfl

/-- A word written to CMD is the command it spells (40_commands.md R110). -/
theorem exec_runsCommand {i j : Instr} (h : RunsCommand j i) (s : State) : exec j s = exec i s := by
  rcases h with rfl | ⟨w, rfl, hw⟩
  · rfl
  · have e : exec (.busWrW 0x00000 w) s = .next (writeCmd w s) := rfl
    rw [e]
    rcases writeCmd_cases w s with ⟨hc, -⟩ | ⟨hd, e⟩ | ⟨hd, e⟩ | ⟨hd, e⟩ | ⟨hd, e⟩
    · simp [decodeCmd_eq, hc] at hw
    all_goals
      rw [hw] at hd
      cases hd
      rw [e]
      rfl

/-- A start command that raises no fault in IDLE starts its operation. -/
theorem goes_start {i : Instr} {s t : State} (hi : IsStart i) (h : exec i s = .next t) (hs : s.seq = .idle)
    (hf : t.fault = false) : Goes (startedOp i) True s t := by
  have start (inRange : Bool) (start : State → State) (e : t = startOperation inRange start s) :
      t = start (clearDone s) := by
    rcases startOperation_cases inRange start s with ⟨h, -⟩ | ⟨-, -, e'⟩ | ⟨-, -, e'⟩
    · exact absurd hs h
    · simp [e, e'] at hf
    · exact e.trans e'
  rcases hi with rfl | ⟨n, rfl | rfl⟩ <;> cases h
  · rw [start _ _ rfl]
    exact .running ⟨rfl, rfl, rfl⟩ rfl
  · rw [start _ _ rfl]
    exact (goes_beginFr (.inl rfl) n (clearDone s)).of_same ⟨rfl, rfl, rfl⟩
  · rw [start _ _ rfl]
    exact (goes_beginWa n (clearDone s)).of_same ⟨rfl, rfl, rfl⟩

/-! ### The history -/

theorem hsAfterRead_events_prefix (r : Word) (c : Cause) (s : State) : s.events <+: (hsAfterRead r c s).events := by
  rcases hsAfterRead_cases r c s with ⟨-, e⟩ | ⟨-, -, e⟩ | ⟨-, -, -, e⟩ | ⟨-, -, -, e⟩ <;> simp [e]

theorem frEnd_events_prefix (r : Word) (c : Cause) (s : State) : s.events <+: (frEnd r c s).events := by
  have h : s.events <+: (forgetAtEnd r (dumpAtEnd r s)).events := by simp [dumpAtEnd_events]
  refine h.trans ?_
  unfold frEnd frHandOver
  split
  · simp
  · exact hsAfterRead_events_prefix ..
  all_goals exact List.prefix_rfl

theorem beginFr_events_prefix (n : Half) (mode : Seq) (s : State) : s.events <+: (beginFr n mode s).events := by
  unfold beginFr
  split
  · exact frEnd_events_prefix 0 .capacity (frOpen n mode s)
  · simp

theorem waEnd_events_prefix (r : Word) (c : Cause) (s : State) : s.events <+: (waEnd r c s).events := by
  unfold waEnd
  split
  · simp
  · unfold hsAfterWrite
    split
    · exact beginFr_events_prefix ..
    · simp
  all_goals exact List.prefix_rfl

theorem frContinue_events_prefix (s : State) : s.events <+: (frContinue s).events := by
  rcases frContinue_cases s with ⟨-, e⟩ | ⟨-, -, e⟩ | ⟨-, -, e⟩ <;> rw [e]
  · exact frEnd_events_prefix ..
  · exact frEnd_events_prefix ..

theorem Move.events_prefix {i : Instr} {s t : State} (h : Move i s t) : s.events <+: t.events := by
  cases h with
  | readStarted n => exact beginFr_events_prefix n .fr (clearDone s)
  | writeStarted n =>
    unfold beginWa
    split
    · exact waEnd_events_prefix 0 .ok (waOpen n .wa (clearDone s))
    · simp
  | syncFailed => exact frEnd_events_prefix ..
  | synced => simpa using frContinue_events_prefix (frCounted Config.sync (frRestart s))
  | counted b => simpa using frContinue_events_prefix (frCounted b s)
  | readFailed v => exact frEnd_events_prefix ..
  | acknowledged k =>
    have sent : s.events <+: (waSend k.toNat s).events := by simp [waSend_events]
    unfold waAccept
    split
    · exact sent.trans (waEnd_events_prefix ..)
    · exact sent
  | writeFailed v => exact waEnd_events_prefix ..
  | _ => simp

theorem step_events_prefix {s t : State} (h : step s = .next t) : s.events <+: t.events := by
  obtain ⟨-, ⟨-, rfl⟩ | ⟨r, rest, -, ⟨i, -, hm⟩ | ⟨c, -, rfl⟩ | rfl⟩⟩ := step_next h
  · exact List.prefix_rfl
  · exact hm.events_prefix
  · simp
  · simp

/-! ### The parameters and the inputs to come -/

theorem Move.environment {i : Instr} {s t : State} (h : Move i s t) : t.cfg = s.cfg ∧ t.pending = s.pending := by
  cases h <;> simp

/-- A step keeps the parameters and takes one input, if there is one. -/
theorem step_environment {s t : State} (h : step s = .next t) : t.cfg = s.cfg ∧ t.pending = s.pending.tail := by
  obtain ⟨-, ⟨hp, rfl⟩ | ⟨r, rest, hp, ⟨i, -, hm⟩ | ⟨c, -, rfl⟩ | rfl⟩⟩ := step_next h
  · simp [hp]
  · simpa [hp] using hm.environment
  · simp [hp]
  · simp [hp]

theorem mem_pending_of_step {k : Nat} {s t : State} (h : step s = .next t) {r : Record} (hr : r ∈ t.pending.take k) :
    r ∈ s.pending.take (k + 1) := by
  rw [(step_environment h).2] at hr
  cases hp : s.pending with
  | nil => simp [hp] at hr
  | cons q rest => exact List.mem_cons_of_mem q (by simpa [hp] using hr)

/-! ### Runs -/

/-- A run that arrives has a first step. -/
theorem run_succ_next {M : Host.Core} {k : Nat} {s t : M.State} (h : M.run (k + 1) s = .next t) :
    ∃ u, M.step s = .next u ∧ M.run k u = .next t := by
  unfold Host.Core.run at h
  split at h
  · exact ⟨_, ‹_›, h⟩
  · cases h
  · cases h

theorem run_succ_of_step {M : Host.Core} {s u : M.State} (h : M.step s = .next u) (k : Nat) :
    M.run (k + 1) s = M.run k u := by
  rw [Host.Core.run, h]

/-- What every step keeps, every run keeps. -/
theorem run_induction {P : State → State → Prop} (refl : ∀ s, P s s)
    (trans : ∀ s u t, step s = .next u → P u t → P s t) :
    ∀ (k : Nat) (s t : State), Host.Core.run core k s = .next t → P s t
  | 0, s, t, h => by cases h; exact refl s
  | k + 1, s, t, h => by
    obtain ⟨u, hu, h⟩ := run_succ_next h
    exact trans s u t hu (run_induction refl trans k u t h)

theorem run_events_prefix {k : Nat} {s t : State} (h : Host.Core.run core k s = .next t) : s.events <+: t.events :=
  run_induction (P := fun s t => s.events <+: t.events) (fun _ => List.prefix_rfl)
    (fun _ _ _ h h' => (step_events_prefix h).trans h') k s t h

theorem configOk_of_booted {s : State} (h : Booted s) : ConfigOk s := by
  obtain ⟨p, inputs, k, hp, h⟩ := h
  have e := run_induction (P := fun s t => t.cfg = s.cfg) (fun _ => rfl)
    (fun _ _ _ h h' => h'.trans (step_environment h).1) k _ s h
  rw [ConfigOk, e]
  exact hp

/-- In a step whose input is no RESET a running operation goes on or ends. -/
theorem step_goes {s t : State} (h : step s = .next t) (hs : s.seq ≠ .idle)
    (hr : ∀ r ∈ s.pending.take 1, decode r ≠ .ok .reset) : Goes s.seq.op True s t := by
  obtain ⟨-, ⟨-, rfl⟩ | ⟨r, rest, hp, ⟨i, hd, hm⟩ | ⟨c, -, rfl⟩ | rfl⟩⟩ := step_next h
  · exact .running ⟨rfl, rfl, rfl⟩ rfl
  · cases hm.progress with
    | stays same hop => exact .running same hop
    | started h => exact absurd h hs
    | ended _ he => exact .ended (he.mono fun _ => wellFormed_of_decode hd)
    | endedAtOnce h => exact absurd h hs
    | reset hi => exact absurd (hi ▸ hd) (hr r (by simp [hp]))
  · exact .running ⟨rfl, rfl, rfl⟩ rfl
  · exact .running ⟨rfl, rfl, rfl⟩ rfl

/-- The first state of a run without RESET that is IDLE with DONE = 1 is the end of the operation the run started. -/
theorem ended_of_run {op : LastOp} (hop : op ≠ .none) {t : State} (ht : RunEnded t) :
    ∀ (k : Nat) (s u : State), Goes op True s u → Host.Core.run core k u = .next t →
      (∀ (j : Nat) (v : State), j < k → Host.Core.run core j u = .next v → ¬ RunEnded v) →
      (∀ r ∈ u.pending.take k, decode r ≠ .ok .reset) → Ended op True t
  | k, s, u, .ended he, h, hfirst, _ => by
    cases k with
    | zero => cases h; exact he
    | succ k => exact absurd ⟨he.idle, he.done⟩ (hfirst 0 u (by omega) rfl)
  | 0, s, u, .running _ hu, h, _, _ => by
    cases h
    rw [ht.1] at hu
    exact absurd hu.symm hop
  | k + 1, s, u, .running _ hu, h, hfirst, unreset => by
    obtain ⟨v, hv, h⟩ := run_succ_next h
    subst hu
    have g := step_goes hv (fun hi => hop ((Seq.op_eq_none_iff _).mpr hi)) fun r hr =>
      unreset r (List.take_subset_take_left _ (by omega) hr)
    exact ended_of_run hop ht k u v g h (fun j w hj hw =>
      hfirst (j + 1) w (by omega) ((run_succ_of_step hv j).trans hw))
      fun r hr => unreset r (mem_pending_of_step hv hr)

/-- The first step of a launch runs the start command, and its input is no RESET. -/
theorem step_of_launch {s : State} {i : Instr} (h : Launch s i) :
    ∃ r rest, s.pending = r :: rest ∧ decode r ≠ .ok .reset ∧ step s = exec i (takeRecord rest s) := by
  obtain ⟨r, rest, hp, w, hw, hr⟩ := h.command
  obtain ⟨j, hd, hj⟩ : ∃ j, decode r = .ok j ∧ RunsCommand j i := by
    rcases hr with hr | rfl
    · exact ⟨_, hr, .inr ⟨w, rfl, hw⟩⟩
    · exact ⟨i, hw, .inl rfl⟩
  refine ⟨r, rest, hp, fun e => ?_, ?_⟩
  · obtain rfl : j = .reset := by simpa [hd] using e
    rcases hj with rfl | ⟨w', hw', -⟩
    · rcases h.start with e | ⟨n, e | e⟩ <;> cases e
    · cases hw'
  · have hc : Config.wellFormed s.cfg = true := configOk_of_booted h.booted
    simp [step, hc, hp, hd, exec_runsCommand hj]

theorem startedOp_ne_none {i : Instr} (h : IsStart i) : startedOp i ≠ .none := by
  rcases h with rfl | ⟨n, rfl | rfl⟩ <;> simp [startedOp]

/-- A run that was launched ends with an end of its own operation. -/
theorem ended_of_launch {s t : State} {i : Instr} {k : Nat} (h : Launch s i) (hr : RunEndsAt s k t) :
    Ended (startedOp i) True t := by
  obtain ⟨r, rest, -, -, hs⟩ := step_of_launch h
  obtain ⟨k, rfl⟩ : ∃ k', k = k' + 1 := ⟨k - 1, by have := hr.positive; omega⟩
  obtain ⟨u, hu, hk⟩ := run_succ_next hr.reached
  have safe : u.fault = false := hr.safe 1 u (by omega) (run_succ_of_step hu 0)
  have g := goes_start h.start (hs.symm.trans hu) h.idle safe
  exact ended_of_run (startedOp_ne_none h.start) hr.ended k _ u g hk
    (fun j v hj hv => hr.first (j + 1) v (by omega) (by omega) ((run_succ_of_step hu j).trans hv))
    fun q hq => hr.unreset q (mem_pending_of_step hu hq)

/-- The start of an empty operation ends it and raises no fault. -/
theorem exec_emptyStart {i : Instr} {s : State} (hi : i = .frStart 0 ∨ i = .waStart 0) (hs : s.seq = .idle) :
    ∃ t, exec i s = .next t ∧ RunEnded t ∧ t.fault = s.fault := by
  rcases hi with rfl | rfl
  · refine ⟨beginFr 0 .fr (clearDone s), ?_, ?_, by simp⟩
    · simp [exec, execFrStart, commandFrStart, startOperation, hs]
    · rw [beginFr_zero, frEnd_of_fr (by simp)]
      exact ⟨rfl, rfl⟩
  · refine ⟨beginWa 0 .wa (clearDone s), ?_, ⟨rfl, rfl⟩, by simp⟩
    simp [exec, execWaStart, commandWaStart, startOperation, hs]

/-- The run of an empty operation ends in the command's own step. -/
theorem runEndsAt_emptyStart {s : State} {i : Instr} (h : Launch s i) (hi : i = .frStart 0 ∨ i = .waStart 0)
    (hf : Safe s) : ∃ t, RunEndsAt s 1 t := by
  obtain ⟨r, rest, hp, hreset, hs⟩ := step_of_launch h
  obtain ⟨t, ht, hended, hft⟩ := exec_emptyStart (s := takeRecord rest s) hi h.idle
  have hrun : Host.Core.run core 1 s = .next t := run_succ_of_step (hs.trans ht) 0
  refine ⟨t, { positive := le_rfl, reached := hrun, ended := hended, first := fun j u _ _ => by omega, safe := ?_,
               unreset := ?_ }⟩
  · intro j u hj hu
    obtain rfl | rfl : j = 0 ∨ j = 1 := by omega
    · cases hu; exact hf
    · cases hu.symm.trans hrun; exact hft.trans hf
  · simpa [hp] using hreset

/-! ### Reset -/

/-- In IDLE no request is outstanding. -/
theorem awaits_nothing_of_idle {s : State} (h : s.seq = .idle) :
    s.awaitsRx = false ∧ s.awaitsTx = false ∧ s.awaitsTimer = false := by
  simp [State.awaitsRx, State.awaitsTx, State.awaitsTimer, h]

theorem inv_resetWith {p : Config.Params} (hp : Config.wellFormed p = true) (inputs : List Record) :
    Inv { State.resetWith p with pending := inputs } where
  config := hp
  memory := ⟨rfl, rfl, rfl, rfl⟩
  capacity := ⟨rfl, Nat.zero_le _⟩
  read := fun h => absurd rfl (ne_idle_of_reading h)
  write := ⟨le_rfl, fun h => absurd h (by simp [State.resetWith]), fun h => absurd h (by simp [State.resetWith])⟩
  flags := by simp [FlagsOk, State.resetWith]

/-! ### The statements -/

/-- Settles O46: RESET is `afterReset`, which holds the reset values by definition. -/
theorem resetEventRestoresTheResetState : Obligations.ResetEventRestoresTheResetState := by
  intro s
  have hstatus : (afterReset s).statusWord = 0 := by
    simp [State.statusWord, State.irq, State.busy, Seq.code, Cause.code, FaultCause.code, LastOp.code]
  refine ⟨afterReset s, rfl, ?_⟩
  simp [awaits_nothing_of_idle (afterReset_seq s), hstatus, State.irq, SameEnvironment, rxByteAt, txByteAt, memLookup]

/-- Settles O56. -/
theorem resetMeetsTheInvariants : Obligations.ResetMeetsTheInvariants := by
  intro p inputs hp
  refine ⟨inv_resetWith hp inputs, ⟨rfl, rfl⟩, fun h => absurd rfl (ne_idle_of_reading h), ?_⟩
  simp [HandshakeSendsCommand, State.resetWith]

/-- Settles O40: STATUS is its fields put side by side, each append a multiplication by a power of two. -/
theorem statusFieldsStandAtTheirBits : Obligations.StatusFieldsStandAtTheirBits := by
  refine ⟨by decide, by decide, by decide, by decide, fun s => ?_⟩
  have busy : s.busy.toNat = if s.seq = .idle then 0 else 1 := by
    by_cases h : s.seq = .idle <;> simp [State.busy, h]
  rw [← busy]
  unfold State.statusWord
  refine (toNat_append_eq _ _).trans ?_
  simp only [toNat_append_eq, BitVec.toNat_ofBool, BitVec.toNat_zero, State.irq]
  ring

/-- Settles O50: only the writes of CTRL and HS_LIMIT and RESET are moves that change a control field. -/
theorem controlChangesOnlyByTheHost : Obligations.ControlChangesOnlyByTheHost := by
  intro i s t h
  have hm := exec_move h
  refine ⟨hm.environment.1, ?_⟩
  cases hm with
  | ctrlWritten d hi => exact .inr (.inr ⟨d, .inl hi⟩)
  | limitWritten d hi => exact .inr (.inr ⟨d, .inr hi⟩)
  | wasReset hi => exact .inr (.inl hi)
  | _ => exact .inl (by simp [SameControl])

/-- Settles O52, by the ways a move changes the operation and its outcome. -/
theorem outcomeChangesOnlyAtAnEnd : Obligations.OutcomeChangesOnlyAtAnEnd := by
  intro i s t h hreset
  cases (exec_move h).progress with
  | stays same => exact .inl same
  | started _ same => exact .inl same
  | ended hs he => exact .inr ⟨.inl hs, he.idle, he.done, he.noCancel⟩
  | endedAtOnce _ hi he => exact .inr ⟨.inr hi, he.idle, he.done, he.noCancel⟩
  | reset hi => exact absurd hi hreset

/-- Only the end of an operation or RESET takes CORE back to IDLE. -/
theorem runEnded_of_return {i : Instr} {s t : State} (h : exec i s = .next t) (hs : s.seq ≠ .idle)
    (ht : t.seq = .idle) : i = .reset ∨ RunEnded t := by
  cases (exec_move h).progress with
  | stays _ hop => rw [ht] at hop; exact absurd ((Seq.op_eq_none_iff _).mp hop.symm) hs
  | started h => exact absurd h hs
  | ended _ he => exact .inr ⟨he.idle, he.done⟩
  | endedAtOnce h => exact absurd h hs
  | reset hi => exact .inl hi

/-- Settles O53, by induction on the steps of the run after its launch. -/
theorem returnToIdleIsAnEnd : Obligations.ReturnToIdleIsAnEnd := by
  refine ⟨fun i s t => runEnded_of_return, fun s t i k h hr => ?_, fun s i => runEndsAt_emptyStart⟩
  have he := ended_of_launch h hr
  obtain ⟨hrx, htx, htimer⟩ := awaits_nothing_of_idle he.idle
  exact ⟨he.lastOp, he.outcome trivial, hrx, htx, htimer,
    List.prefix_iff_eq_append.mp (run_events_prefix hr.reached) |>.symm⟩

end Sys2Proof.Machine
end

section
/-! SUPPORT. What a move does to the two buffers, said once (20_memory.md R62, R63, R69), and the statements about them. -/

namespace Sys2Proof.Machine
open Sys2Proof.Safety

/-! ### TXBUF -/

theorem txIndexAt_bounds {p : Config.Params} {a : HostAddr} {k : Nat} (h : txIndexAt p a = some k) :
    0x20000 ≤ a.toNat ∧ a.toNat < 0x30000 ∧ k < p.txBufCap := by
  unfold txIndexAt at h
  split at h
  · rename_i hb
    rw [Option.some.injEq] at h
    omega
  · cases h

/-- What a move does to TXBUF. -/
inductive TxbufChange (i : Instr) (s t : State) : Prop where
  | kept (hbuf : t.txbuf = s.txbuf) (hdraw : t.txDraw = s.txDraw)
  | reset (hi : i = .reset) (hbuf : t.txbuf = [])
  | written (a : HostAddr) (d : Byte) (k : Nat) (hi : i = .busWrB a d) (ha : txIndexAt s.cfg a = some k)
      (h : s.seq ≠ .wa) (hbuf : t.txbuf = memInsert s.txbuf k d)

theorem Move.txbufChange {i : Instr} {s t : State} (h : Move i s t) : TxbufChange i s t := by
  cases h with
  | txbufWritten a d k hi ha h => exact .written a d k hi ha h rfl
  | wasReset hi => exact .reset hi rfl
  | _ => exact .kept (by simp) (by simp)

/-- Settles O51: of the moves, only a host byte write outside WA and RESET change TXBUF. -/
theorem txbufChangesOnlyByTheHost : Obligations.TxbufChangesOnlyByTheHost := by
  intro i s t h
  cases (exec_move h).txbufChange with
  | kept hbuf hdraw => exact .inl (txByteAt_congr hbuf hdraw)
  | reset hi => exact .inr (.inl hi)
  | written a d k hi ha hseq =>
    obtain ⟨hlo, hhi, -⟩ := txIndexAt_bounds ha
    exact .inr (.inr ⟨a, d, hi, hseq, hlo, hhi⟩)

/-! ### RXBUF -/

/-- RXBUF is as it was, or none of its bytes is specified (20_memory.md R62). -/
def RxKeptOrCleared (s t : State) : Prop := t.rxbuf = s.rxbuf ∨ t.rxbuf = []

theorem RxKeptOrCleared.trans {s t u : State} (h : RxKeptOrCleared s t) (h' : RxKeptOrCleared t u) :
    RxKeptOrCleared s u := by
  rcases h' with h' | h'
  · rwa [RxKeptOrCleared, h']
  · exact .inr h'

/-- The end of a read stores nothing. -/
theorem frEnd_rxKeptOrCleared (r : Word) (c : Cause) (s : State) : RxKeptOrCleared s (frEnd r c s) := by
  unfold RxKeptOrCleared frEnd
  rw [frHandOver_rxbuf]
  unfold forgetAtEnd
  split
  · exact .inr rfl
  · exact .inl (dumpAtEnd_rxbuf r s)

theorem frContinue_rxKeptOrCleared (s : State) : RxKeptOrCleared s (frContinue s) := by
  rcases frContinue_cases s with ⟨-, e⟩ | ⟨-, -, e⟩ | ⟨-, -, e⟩ <;> rw [e]
  · exact frEnd_rxKeptOrCleared ..
  · exact frEnd_rxKeptOrCleared ..
  · exact .inl rfl

/-- The start of a read clears RXBUF, and an end in the same step keeps it so. -/
@[simp] theorem beginFr_rxbuf (n : Half) (mode : Seq) (s : State) : (beginFr n mode s).rxbuf = [] := by
  unfold beginFr
  split
  · exact (frEnd_rxKeptOrCleared 0 .capacity (frOpen n mode s)).elim id id
  · rfl

/-- The end of a write keeps RXBUF, or starts the read of a handshake. -/
theorem waEnd_rxKeptOrCleared (r : Word) (c : Cause) (s : State) : RxKeptOrCleared s (waEnd r c s) := by
  unfold waEnd
  split
  · exact .inl rfl
  · unfold hsAfterWrite
    split
    · exact .inr (beginFr_rxbuf ..)
    · exact .inl rfl
  all_goals exact .inl rfl

theorem beginWa_rxKeptOrCleared (n : Half) (mode : Seq) (s : State) : RxKeptOrCleared s (beginWa n mode s) := by
  unfold beginWa
  split
  · exact waEnd_rxKeptOrCleared 0 .ok (waOpen n mode s)
  · exact .inl rfl

theorem waAccept_rxKeptOrCleared (k : Nat) (s : State) : RxKeptOrCleared s (waAccept k s) := by
  have sent : RxKeptOrCleared s (waSend k s) := .inl (waSend_rxbuf k s)
  unfold waAccept
  split
  · exact sent.trans (waEnd_rxKeptOrCleared ..)
  · exact sent

/-- What a move does to RXBUF. -/
inductive RxbufChange (s t : State) : Prop where
  | keptOrCleared (h : RxKeptOrCleared s t)
  /-- a byte joins the bytes of the frame -/
  | stored (b : Byte) (hk : s.frRes.toNat < s.cfg.rxBufCap) (hbuf : t.rxbuf = memInsert s.rxbuf s.frRes.toNat b)
  /-- a sync byte starts the frame again -/
  | restarted (hk : 0 < s.cfg.rxBufCap) (hbuf : t.rxbuf = [(0, Config.sync)])

theorem Move.rxbufChange {i : Instr} {s t : State} (h : Move i s t) : RxbufChange s t := by
  cases h with
  | readStarted n => exact .keptOrCleared (.inr (beginFr_rxbuf ..))
  | writeStarted n => exact .keptOrCleared (beginWa_rxKeptOrCleared n .wa (clearDone s))
  | syncFailed => exact .keptOrCleared (frEnd_rxKeptOrCleared ..)
  | synced _ hc =>
    rcases frContinue_rxKeptOrCleared (frCounted Config.sync (frRestart s)) with e | e
    · exact .restarted hc (e.trans (frCounted_rxbuf ..))
    · exact .keptOrCleared (.inr e)
  | counted b _ _ _ hc =>
    rcases frContinue_rxKeptOrCleared (frCounted b s) with e | e
    · exact .stored b hc (e.trans (frCounted_rxbuf ..))
    · exact .keptOrCleared (.inr e)
  | readFailed v => exact .keptOrCleared (frEnd_rxKeptOrCleared ..)
  | acknowledged k => exact .keptOrCleared (waAccept_rxKeptOrCleared ..)
  | writeFailed v => exact .keptOrCleared (waEnd_rxKeptOrCleared ..)
  | wasReset => exact .keptOrCleared (.inr rfl)
  | _ => exact .keptOrCleared (.inl rfl)

/-! ### The canonical form -/

/-- A move keeps both buffers in canonical form and inside their sizes. -/
theorem Move.memoryOk {i : Instr} {s t : State} (h : Move i s t) (hs : MemoryOk s) : MemoryOk t := by
  obtain ⟨hrx, htx, hrxIn, htxIn⟩ := hs
  have rx : Memory.wf t.rxbuf = true ∧ memInside s.cfg.rxBufCap t.rxbuf = true := by
    cases h.rxbufChange with
    | keptOrCleared h =>
      rcases h with e | e <;> rw [e]
      · exact ⟨hrx, hrxIn⟩
      · exact ⟨wf_nil, inside_nil _⟩
    | stored b hk e => rw [e]; exact ⟨wf_memInsert _ _ _ hrx, inside_memInsert _ _ hk hrxIn⟩
    | restarted hk e => rw [e]; exact ⟨rfl, inside_memInsert [] Config.sync hk (inside_nil _)⟩
  have tx : Memory.wf t.txbuf = true ∧ memInside s.cfg.txBufCap t.txbuf = true := by
    cases h.txbufChange with
    | kept e => rw [e]; exact ⟨htx, htxIn⟩
    | reset _ e => rw [e]; exact ⟨wf_nil, inside_nil _⟩
    | written a d k _ ha _ e =>
      obtain ⟨-, -, hk⟩ := txIndexAt_bounds ha
      rw [e]
      exact ⟨wf_memInsert _ _ _ htx, inside_memInsert _ _ hk htxIn⟩
  rw [MemoryOk, h.environment.1]
  exact ⟨rx.1, tx.1, rx.2, tx.2⟩

/-- Settles O54: a step is a move, or raises a fault and touches no buffer. -/
theorem stepKeepsBuffersCanonical : Obligations.StepKeepsBuffersCanonical := by
  intro s t hs h
  obtain ⟨-, ⟨-, rfl⟩ | ⟨r, rest, -, ⟨i, -, hm⟩ | ⟨c, -, rfl⟩ | rfl⟩⟩ := step_next h
  · exact hs
  · exact hm.memoryOk hs
  · exact hs
  · exact hs

end Sys2Proof.Machine
end

section
/-! The statements about the encoding: the round trips of the four record formats, and which command words and event
records spell nothing (30_encoding.md R80, R87, R89, R91, R92, R94). -/

namespace Sys2Proof.Machine
open Sys2Proof.Safety

/-! ### From the instruction to its record and back -/

theorem decodeWire_of_data {b : Byte} (hsync : b ≠ Config.sync) (hesc : b ≠ Config.esc) : decodeWire b = .data b := by
  simp [decodeWire, hsync, hesc]

/-- A host transaction is decoded from its fields (30_encoding.md R94). -/
theorem decodeBus_busRecord (write : BitVec 1) (size : BitVec 2) (addr : HostAddr) (data : Word) :
    decodeBus (busRecord write size addr data) =
      if size = 0b00#2 then .ok (if write = 1#1 then .busWrB addr (data.extractLsb' 0 8) else .busRdB addr)
      else if size = 0b10#2 then .ok (if write = 1#1 then .busWrW addr data else .busRdW addr)
      else .error (.reservedWidth (decide (write = 1#1))) := by
  simp only [decodeBus, busRecord_write, busRecord_size, busRecord_addr, busRecord_data, decide_eq_true_eq]

/-- Settles O2, format by format: a decoder reads back the fields its record was put together from. -/
theorem encodedInstructionDecodesBack : Obligations.EncodedInstructionDecodesBack := by
  intro i hi
  cases i with
  | sync | esc => rfl
  | data b =>
    simp only [Instr.wellFormed, Bool.and_eq_true, decide_eq_true_eq] at hi
    obtain ⟨hsync, hesc⟩ := hi
    exact congrArg Except.ok (decodeWire_of_data hsync hesc)
  | hsStart | frStart | waStart | cancel => simp [encode, decode, decodeCmd]
  | rxByte | txAck | delayDone | reset => simp [encode, decode, decodeEvent]
  | rxFail v =>
    simp only [Instr.wellFormed, Bool.or_eq_true, decide_eq_true_eq] at hi
    simp [encode, decode, decodeEvent, hi]
  | txFail v =>
    simp only [Instr.wellFormed] at hi
    simp [encode, decode, decodeEvent, hi]
  | busRdB | busWrB | busRdW | busWrW => simp [encode, decode, decodeBus_busRecord]

/-! ### From a record to its instruction and back -/

/-- A command word with RSV = 0 is put together from its OP and ARG. -/
theorem cmdWord_fields {w : Word} (h : cmdRsv w = 0) : cmdWord (w.extractLsb' 28 4) (cmdArg w) = w := by
  apply BitVec.eq_of_toNat_eq
  have hr : w.toNat / 2 ^ 16 % 2 ^ 12 = 0 := by
    rw [← toNat_extractLsb'_div]; exact congrArg BitVec.toNat h
  rw [toNat_cmdWord, cmdArg, toNat_extractLsb'_div, toNat_extractLsb'_div]
  have := w.isLt
  omega

theorem eventRecord_fields (r : BitVec 36) : eventRecord (r.extractLsb' 32 4) (r.extractLsb' 0 32) = r := by
  apply BitVec.eq_of_toNat_eq
  rw [toNat_eventRecord, toNat_extractLsb'_div, toNat_extractLsb'_div]
  have := r.isLt
  omega

/-- A payload that is a byte. -/
theorem zeroExtend8_of_high {p : Word} (h : p.extractLsb' 8 24 = 0#24) : (0#24 ++ p.extractLsb' 0 8 : Word) = p := by
  rw [← h]
  apply BitVec.eq_of_toNat_eq
  have := p.isLt
  refine (toNat_append_eq (p.extractLsb' 8 24) (p.extractLsb' 0 8)).trans ?_
  rw [toNat_extractLsb'_div, toNat_extractLsb'_div]
  omega

theorem encode_decodeWire (b : Byte) : encode (decodeWire b) = .wire8 b := by
  unfold decodeWire
  split
  · subst b; rfl
  · split
    · subst b; rfl
    · rfl

theorem encode_of_decodeCmd {w : Word} {i : Instr} (h : decodeCmd w = .ok i) : encode i = .cmd32 w := by
  have hrsv : cmdRsv w = 0 := by
    by_contra hr
    cases (if_pos hr).symm.trans h
  obtain ⟨op, arg, rfl⟩ : ∃ op arg, cmdWord op arg = w := ⟨_, _, cmdWord_fields hrsv⟩
  simp only [decodeCmd, cmdWord_op, cmdWord_rsv, cmdWord_arg] at h
  (repeat' split at h) <;> cases h <;> subst_vars <;> rfl

theorem encode_of_decodeEvent {r : BitVec 36} {i : Instr} (h : decodeEvent r = .ok i) : encode i = .ev36 r := by
  obtain ⟨kind, payload, rfl⟩ : ∃ kind payload, eventRecord kind payload = r := ⟨_, _, eventRecord_fields r⟩
  simp only [decodeEvent, eventRecord_kind, eventRecord_payload] at h
  (repeat' split at h) <;> cases h <;> subst_vars
  · exact congrArg (Record.ev36 <| eventRecord 0x1 ·) (zeroExtend8_of_high ‹_›)
  all_goals rfl

/-- Settles O3: a wire, command or event record is put together again from the fields its decoder reads. -/
theorem decodedInstructionReencodes : Obligations.DecodedInstructionReencodes := by
  intro r i h
  refine ⟨wellFormed_of_decode h, fun hbus => ?_⟩
  cases r with
  | wire8 b => cases h; exact encode_decodeWire b
  | cmd32 w => exact encode_of_decodeCmd h
  | ev36 r => exact encode_of_decodeEvent h
  | bus53 b => exact absurd rfl (hbus b)

/-! ### What spells nothing -/

theorem decodeCmd_error_iff (w : Word) : decodeCmd w = .error .illegalCommand ↔ cmdIllegal w = true := by
  rw [decodeCmd_eq]
  split
  · simp [*]
  · (repeat' split) <;> simp [*]

theorem cmdIllegal_iff (w : Word) : cmdIllegal w = true ↔ IllegalWord w := by
  have hop : cmdOp w = w.toNat / 2 ^ 28 := by
    rw [cmdOp, toNat_extractLsb'_div]; have := w.isLt; omega
  have hrsv : cmdRsv w = 0#12 ↔ w.toNat / 2 ^ 16 % 2 ^ 12 = 0 := by
    rw [cmdRsv, ← BitVec.toNat_inj, toNat_extractLsb'_div]; rfl
  have harg : cmdArg w = 0#16 ↔ w.toNat % 2 ^ 16 = 0 := by
    rw [cmdArg, ← BitVec.toNat_inj, toNat_extractLsb'_div, pow_zero, Nat.div_one]; rfl
  simp only [cmdIllegal, IllegalWord, Bool.or_eq_true, Bool.and_eq_true, decide_eq_true_eq, ne_eq, hop, hrsv, harg,
    or_assoc]

/-- Settles O4: the decoder and CMD read the same fields, here as numbers. -/
theorem commandWordIllegalExactly : Obligations.CommandWordIllegalExactly :=
  fun w => ⟨(decodeCmd_error_iff w).trans (cmdIllegal_iff w), cmdIllegal_iff w⟩

/-- A step whose record spells nothing has the effect of the refused record. -/
theorem step_of_decode_error {s : State} {r : Record} {rest : List Record} {e : DecodeError} (hc : ConfigOk s)
    (hp : s.pending = r :: rest) (he : decode r = .error e) : step s = refuseRecord e (takeRecord rest s) := by
  rw [ConfigOk] at hc
  simp [step, hc, hp, he]

theorem decodeEvent_error {r : BitVec 36} {e : DecodeError} (h : decodeEvent r = .error e) :
    ∃ why, e = .reservedEvent why := by
  simp only [decodeEvent] at h
  (repeat' split at h) <;> cases h <;> exact ⟨_, rfl⟩

/-- A test in the decoder refuses where the branch it takes does. -/
theorem exists_reserved_ite {c : Prop} [Decidable c] (x y : Except DecodeError Instr) :
    (∃ why, (if c then x else y) = .error (.reservedEvent why)) ↔
      (c ∧ ∃ why, x = .error (.reservedEvent why)) ∨ (¬ c ∧ ∃ why, y = .error (.reservedEvent why)) := by
  split <;> simp [*]

/-- The reserved event records, by the numbers of their fields (30_encoding.md R92). -/
theorem decodeEvent_reserved_iff (kind : BitVec 4) (payload : Word) :
    (∃ why, decodeEvent (eventRecord kind payload) = .error (.reservedEvent why)) ↔
      kind.toNat = 0 ∨ (6 ≤ kind.toNat ∧ kind.toNat ≤ 14) ∨ (kind.toNat = 1 ∧ 256 ≤ payload.toNat) ∨
        (kind.toNat = 2 ∧ 1 ≤ payload.toNat ∧ payload.toNat < 2 ^ 31) ∨ (kind.toNat = 4 ∧ payload.toNat < 2 ^ 31) ∨
        ((kind.toNat = 5 ∨ kind.toNat = 15) ∧ payload.toNat ≠ 0) := by
  have isByte : payload.extractLsb' 8 24 = 0#24 ↔ payload.toNat < 256 := by
    rw [← BitVec.toNat_inj, toNat_extractLsb'_div, BitVec.toNat_zero]
    have := payload.isLt
    omega
  have isZero : payload = 0#32 ↔ payload.toNat = 0 := by rw [← BitVec.toNat_inj, BitVec.toNat_zero]
  have isNegative : payload.msb = true ↔ 2 ^ 31 ≤ payload.toNat := by simp [BitVec.msb_eq_decide]
  have kindIs (n : Nat) (hn : n < 16) : kind = BitVec.ofNat 4 n ↔ kind.toNat = n := by
    rw [← BitVec.toNat_inj, BitVec.toNat_ofNat, Nat.mod_eq_of_lt hn]
  have spells (i : Instr) : ¬ ∃ why, (.ok i : Except DecodeError Instr) = .error (.reservedEvent why) := by simp
  have refuses (w : EventReject) :
      ∃ why, (.error (.reservedEvent w) : Except DecodeError Instr) = .error (.reservedEvent why) := ⟨w, rfl⟩
  simp only [decodeEvent, eventRecord_kind, eventRecord_payload, isByte, isZero, isNegative, kindIs, Nat.reduceLT,
    exists_reserved_ite, spells, refuses, and_false, and_true, false_or]
  omega

/-- Settles O5: the decoder refuses by the numbers of the two fields, and the step hands its refusal on. -/
theorem eventRecordReservedExactly : Obligations.EventRecordReservedExactly := by
  intro r
  have hk : (r.extractLsb' 32 4).toNat = r.toNat / 2 ^ 32 := by
    rw [toNat_extractLsb'_div]; have := r.isLt; omega
  have hp : (r.extractLsb' 0 32).toNat = r.toNat % 2 ^ 32 := by rw [toNat_extractLsb'_div, pow_zero, Nat.div_one]
  have h := decodeEvent_reserved_iff (r.extractLsb' 32 4) (r.extractLsb' 0 32)
  rw [eventRecord_fields, hk, hp] at h
  refine ⟨h, fun e he => ?_⟩
  obtain ⟨why, rfl⟩ := decodeEvent_error he
  exact ⟨why, rfl, fun s rest hc hp => step_of_decode_error hc hp he⟩

/-- Settles O1: each record is evaluated. -/
theorem specWordsDecode : Obligations.SpecWordsDecode := by
  unfold Obligations.SpecWordsDecode
  decide

end Sys2Proof.Machine
end

section
/-! SUPPORT. What the frame registers say of the stored bytes, kept byte by byte, and the statement about it
(30_encoding.md R82, R83; 42_framereader.md R155, R158, R159). -/

namespace Sys2Proof.Machine
open Sys2Proof.Safety

/-! ### Logical bytes -/

/-- Whether a marker announces the byte that follows these raw bytes, given whether one announced their first byte. -/
def announces : Bool → List Byte → Bool
  | escaped, [] => escaped
  | _, b :: bs => announces (decide (b = Config.esc)) bs

theorem announces_append (escaped : Bool) (bs : List Byte) (b : Byte) :
    announces escaped (bs ++ [b]) = decide (b = Config.esc) := by
  induction bs generalizing escaped with
  | nil => rfl
  | cons c bs ih => exact ih _

theorem announces_false_iff (bs : List Byte) :
    announces false bs = true ↔ bs.getLast? = some Config.esc := by
  rcases List.eq_nil_or_concat bs with rfl | ⟨bs, b, rfl⟩
  · simp [announces]
  · simp [announces_append]

/-- The logical bytes come in the order of the raw bytes. -/
theorem logicalBytes_append (escaped : Bool) (bs cs : List Byte) :
    logicalBytes escaped (bs ++ cs) = logicalBytes escaped bs ++ logicalBytes (announces escaped bs) cs := by
  induction bs generalizing escaped with
  | nil => rfl
  | cons b bs ih => by_cases hb : b = Config.esc <;> simp [logicalBytes, announces, ih, hb]

theorem logicalBytes_marker (escaped : Bool) : logicalBytes escaped [Config.esc] = [] := rfl

theorem logicalBytes_of_ne_esc {b : Byte} (h : b ≠ Config.esc) (escaped : Bool) :
    logicalBytes escaped [b] = [logicalValue escaped b] := by simp [logicalBytes, logicalValue, h]

/-- Every raw byte is a logical byte or a marker. -/
theorem length_logicalBytes (escaped : Bool) (bs : List Byte) :
    (logicalBytes escaped bs).length + bs.count Config.esc = bs.length := by
  induction bs generalizing escaped with
  | nil => rfl
  | cons b bs ih =>
    by_cases hb : b = Config.esc
    · have := ih true; simp [logicalBytes, hb]; omega
    · have := ih false; simp [logicalBytes, hb]; omega

/-! ### The length -/

/-- What FR_LEN.LEN holds after these logical bytes: the declared length as far as it is there (42_framereader.md R159). -/
def lengthSoFar : List Byte → Half
  | [] | [_] => 0
  | [_, hi] => hi ++ 0#8
  | _ :: hi :: lo :: _ => hi ++ 0#8 ||| (0#8 ++ lo)

theorem toNat_lengthSoFar_known (a hi lo : Byte) (l : List Byte) :
    (lengthSoFar (a :: hi :: lo :: l)).toNat = hi.toNat * 256 + lo.toNat := by
  have high : (hi ++ 0#8 : Half).toNat = 2 ^ 8 * hi.toNat := by simpa [Nat.mul_comm] using toNat_append_eq hi 0#8
  have low : (0#8 ++ lo : Half).toNat = lo.toNat := by simpa using toNat_append_eq 0#8 lo
  rw [lengthSoFar, BitVec.toNat_or, high, low, ← Nat.two_pow_add_eq_or_of_lt lo.isLt]
  omega

/-- The declared length is there from the third logical byte on. -/
theorem declaredLength_eq (bs : List Byte) :
    declaredLength bs =
      if 3 ≤ (logicalBytes false bs).length then some (lengthSoFar (logicalBytes false bs)).toNat else none := by
  unfold declaredLength
  rcases logicalBytes false bs with _ | ⟨a, _ | ⟨b, _ | ⟨c, l⟩⟩⟩
  · rfl
  · rfl
  · rfl
  · simp [toNat_lengthSoFar_known]

/-- The declared length, once there, does not change. -/
theorem lengthSoFar_append {l : List Byte} (h : 3 ≤ l.length) (m : List Byte) :
    lengthSoFar (l ++ m) = lengthSoFar l := by
  rcases l with _ | ⟨a, _ | ⟨b, _ | ⟨c, l⟩⟩⟩
  · simp at h
  · simp at h
  · simp at h
  · rfl

/-! ### Registers and bytes -/

/-- The frame registers of `s` are what the stored bytes `bs` say. -/
structure Describes (s : State) (bs : List Byte) : Prop where
  markers : s.frEscCnt.toNat = bs.count Config.esc
  flag : s.frEscFlag = announces false bs
  known : s.frHaveLen = true ↔ 3 ≤ (logicalBytes false bs).length
  length : s.frLen = lengthSoFar (logicalBytes false bs)
  synced : Config.sync ∉ bs.tail

theorem registersDescribeBytes_iff (s : State) :
    RegistersDescribeBytes s ↔ (Reading s → Describes s (rxBytes s 0 s.frRes.toNat)) := by
  unfold RegistersDescribeBytes
  generalize rxBytes s 0 s.frRes.toNat = bs
  have known : (declaredLength bs).isSome = true ↔ 3 ≤ (logicalBytes false bs).length := by
    rw [declaredLength_eq]; split <;> simp [*]
  refine imp_congr_right fun _ => ⟨fun ⟨hm, hf, hk, hn, htwo, hshort, hs⟩ => ?_, fun h => ?_⟩
  · refine ⟨hm, Bool.eq_iff_iff.mpr (hf.trans (announces_false_iff bs).symm), hk.trans known, ?_, hs⟩
    rcases hl : logicalBytes false bs with _ | ⟨a, _ | ⟨b, _ | ⟨c, l⟩⟩⟩
    · exact hshort (by simp [hl])
    · exact hshort (by simp [hl])
    · exact htwo a b hl
    · exact BitVec.eq_of_toNat_eq (hn _ (by simp [declaredLength_eq, hl]))
  · refine ⟨h.markers, by rw [h.flag, announces_false_iff], h.known.trans known.symm, fun n hn => ?_, fun b c hl => ?_,
      fun hl => ?_, h.synced⟩
    · rw [declaredLength_eq] at hn
      split at hn <;> cases hn
      rw [h.length]
    · rw [h.length, hl]; rfl
    · rw [h.length]
      rcases hl' : logicalBytes false bs with _ | ⟨a, _ | ⟨b, l⟩⟩
      · rfl
      · rfl
      · simp [hl'] at hl

/-- A read that has stored nothing. -/
theorem describes_frRestart (s : State) : Describes (frRestart s) [] where
  markers := rfl
  flag := rfl
  known := iff_of_false Bool.false_ne_true (by decide)
  length := rfl
  synced := List.not_mem_nil

/-- The length accumulator takes the byte at its logical position (42_framereader.md R159). -/
theorem frAccumulate_length {s : State} {l : List Byte} (hr : s.frRes.toNat = s.frEscCnt.toNat + (l.length + 1))
    (h : s.frLen = lengthSoFar l) (hl : l.length < 3) (hk : s.frHaveLen = false) (v : Byte) :
    (frAccumulate v s).frLen = lengthSoFar (l ++ [v]) ∧
      ((frAccumulate v s).frHaveLen = true ↔ 3 ≤ (l ++ [v]).length) := by
  unfold frAccumulate
  rcases l with _ | ⟨a, _ | ⟨b, _ | ⟨c, l⟩⟩⟩
  · simp [hr, h, hk, lengthSoFar]
  · simp [hr, hk, lengthSoFar, frTakeHigh]
  · simp [hr, h, lengthSoFar, frTakeLow]
  · simp only [List.length_cons] at hl; omega

/-- A byte that restarts no frame brings no sync byte after the first byte. -/
theorem sync_notMem_tail_append {bs : List Byte} {b : Byte} (h : Config.sync ∉ bs.tail)
    (hb : b = Config.sync → bs = []) : Config.sync ∉ (bs ++ [b]).tail := by
  rcases bs with _ | ⟨a, bs⟩
  · exact List.not_mem_nil
  · have hne : Config.sync ≠ b := fun e => absurd (hb e.symm) (List.cons_ne_nil a bs)
    simpa [hne] using h

/-- A marker joins the bytes the registers describe (42_framereader.md R158). -/
theorem Describes.marker {s : State} {bs : List Byte} (h : Describes s bs) (hbs : bs.length < 65535) :
    Describes (frMarker s) (bs ++ [Config.esc]) := by
  have hlog : logicalBytes false (bs ++ [Config.esc]) = logicalBytes false bs := by
    rw [logicalBytes_append, logicalBytes_marker, List.append_nil]
  have hm := h.markers
  have hle : bs.count Config.esc ≤ bs.length := List.count_le_length
  refine ⟨?_, ?_, by rw [hlog]; exact h.known, by rw [hlog]; exact h.length,
    sync_notMem_tail_append h.synced fun e => absurd e (by decide)⟩
  · simp [BitVec.toNat_add, hm]; omega
  · simp [announces_append]

/-- A byte that is no marker joins the bytes the registers describe, as a logical byte (42_framereader.md R159). -/
theorem Describes.logical {s : State} {bs : List Byte} (h : Describes s bs) (hr : s.frRes.toNat = bs.length + 1)
    {b : Byte} (hesc : b ≠ Config.esc) (hsync : b = Config.sync → bs = []) :
    Describes (frDecode b s) (bs ++ [b]) := by
  have hlog : logicalBytes false (bs ++ [b]) = logicalBytes false bs ++ [logicalValue s.frEscFlag b] := by
    rw [logicalBytes_append, logicalBytes_of_ne_esc hesc, h.flag]
  have hm : s.frEscCnt.toNat = (bs ++ [b]).count Config.esc := by simpa [hesc] using h.markers
  have hf : false = announces false (bs ++ [b]) := by simp [announces_append, hesc]
  have hs := sync_notMem_tail_append h.synced hsync
  rcases frDecode_cases b s with ⟨he, -⟩ | ⟨-, hk, e⟩ | ⟨-, hk, e⟩
  · exact absurd he hesc
  · have h3 := h.known.mp hk
    rw [e]
    refine ⟨hm, hf, iff_of_true hk ?_, ?_, hs⟩
    · rw [hlog, List.length_append]; omega
    · rw [hlog, lengthSoFar_append h3]; exact h.length
  · have hlen := length_logicalBytes false bs
    have hm' := h.markers
    have hlt : ¬ 3 ≤ (logicalBytes false bs).length := fun h3 => by simp [h.known.mpr h3] at hk
    obtain ⟨hl, hk'⟩ := frAccumulate_length (s := frClearFlag s) (l := logicalBytes false bs)
      (by simp; omega) h.length (by omega) hk (logicalValue s.frEscFlag b)
    rw [e]
    exact ⟨by simpa using hm, by simpa using hf, by rw [hlog]; exact hk', by rw [hlog]; exact hl, hs⟩

/-- A counted byte joins the bytes the registers describe: a sync byte only as the first, a marker only after it. -/
theorem Describes.counted {s : State} {bs : List Byte} (h : Describes s bs) (hr : s.frRes.toNat = bs.length)
    (hc : ConfigOk s) (hlt : s.frRes.toNat < s.cfg.rxBufCap) {b : Byte} (hsync : b = Config.sync → bs = [])
    (hesc : b = Config.esc → bs ≠ []) : Describes (frCounted b s) (bs ++ [b]) := by
  have hcount : Describes (frCount s) bs := ⟨h.markers, h.flag, h.known, h.length, h.synced⟩
  suffices d : Describes (frDecode b (frCount s)) (bs ++ [b]) from ⟨d.markers, d.flag, d.known, d.length, d.synced⟩
  by_cases hb : b = Config.esc
  · subst hb
    have h0 : s.frRes ≠ 0 := fun e => hesc rfl (List.length_eq_zero_iff.mp (by simpa [e] using hr.symm))
    have := config_bounds hc
    rw [frDecode_marker hc h0 hlt]
    exact hcount.marker (by omega)
  · exact hcount.logical (by rw [frCount_frRes, frRes_succ hc hlt, hr]) hb hsync

/-! ### Moves -/

theorem not_reading_frEnd {s : State} (h : Reading s) (r : Word) (c : Cause) : ¬ Reading (frEnd r c s) := by
  rcases frEnd_seq (r := r) (c := c) h with e | e <;> simp [Reading, e]

/-- A state that reads nothing has nothing to describe. -/
theorem registersDescribeBytes_of_not_reading {s : State} (h : ¬ Reading s) : RegistersDescribeBytes s :=
  fun h' => absurd h' h

theorem registersDescribeBytes_frContinue {s : State} (h : Reading s) (hs : RegistersDescribeBytes s) :
    RegistersDescribeBytes (frContinue s) := by
  rcases frContinue_cases s with ⟨-, e⟩ | ⟨-, -, e⟩ | ⟨-, -, e⟩ <;> rw [e]
  · exact registersDescribeBytes_of_not_reading (not_reading_frEnd h _ _)
  · exact registersDescribeBytes_of_not_reading (not_reading_frEnd h _ _)
  · exact hs

/-- A byte that is counted after the bytes the registers describe. -/
theorem registersDescribeBytes_counted {s : State} {b : Byte} (h : Reading s)
    (hs : Describes s (rxBytes s 0 s.frRes.toNat)) (hc : ConfigOk s) (hlt : s.frRes.toNat < s.cfg.rxBufCap)
    (hsync : b = Config.sync → s.frRes = 0) (hesc : b = Config.esc → s.frRes ≠ 0) :
    RegistersDescribeBytes (frContinue (frCounted b s)) := by
  have empty : rxBytes s 0 s.frRes.toNat = [] ↔ s.frRes = 0 := by
    rw [← List.length_eq_zero_iff, rxBytes_length, ← BitVec.toNat_inj]; rfl
  refine registersDescribeBytes_frContinue (by simpa [Reading] using h)
    ((registersDescribeBytes_iff _).mpr fun _ => ?_)
  rw [frCounted_frRes, frRes_succ hc hlt, rxBytes_frCounted]
  exact hs.counted (rxBytes_length ..).symm hc hlt (fun e => empty.mpr (hsync e)) fun e => mt empty.mp (hesc e)

theorem registersDescribeBytes_frRestart (s : State) : RegistersDescribeBytes (frRestart s) :=
  (registersDescribeBytes_iff _).mpr fun _ => describes_frRestart s

theorem registersDescribeBytes_beginFr {mode : Seq} (hm : mode = .fr ∨ mode = .hsFr) (n : Half) (s : State) :
    RegistersDescribeBytes (beginFr n mode s) := by
  by_cases hn : n = 0
  · subst hn
    rw [beginFr_zero]
    exact registersDescribeBytes_of_not_reading (not_reading_frEnd (s := frOpen 0 mode s) hm _ _)
  · rw [beginFr_of_pos hn]
    exact registersDescribeBytes_frRestart _

theorem registersDescribeBytes_waEnd {s : State} (h : s.seq = .wa ∨ s.seq = .hsWa) (r : Word) (c : Cause) :
    RegistersDescribeBytes (waEnd r c s) := by
  have ended (op : LastOp) (c : Cause) : RegistersDescribeBytes (endOp op r c s) :=
    registersDescribeBytes_of_not_reading (by simp [Reading])
  rcases h with h | h
  · rw [waEnd_of_wa h]
    exact ended _ _
  · rw [waEnd_of_hsWa h]
    unfold hsAfterWrite
    split
    · exact registersDescribeBytes_beginFr (.inr rfl) _ _
    · exact ended _ _

theorem not_reading_of_writing {s : State} (h : s.seq = .wa ∨ s.seq = .hsWa) : ¬ Reading s := by
  rcases h with h | h <;> simp [Reading, h]

theorem Move.registersDescribeBytes {i : Instr} {s t : State} (h : Move i s t) (hc : ConfigOk s)
    (hs : RegistersDescribeBytes s) : RegistersDescribeBytes t := by
  cases h with
  | handshakeStarted => exact registersDescribeBytes_of_not_reading (not_reading_of_writing (.inr rfl))
  | readStarted n => exact registersDescribeBytes_beginFr (.inl rfl) n _
  | writeStarted n =>
    unfold beginWa
    split
    · exact registersDescribeBytes_waEnd (.inl rfl) _ _
    · exact registersDescribeBytes_of_not_reading (not_reading_of_writing (.inl rfl))
  | syncFailed h => exact registersDescribeBytes_of_not_reading (not_reading_frEnd h _ _)
  | synced h hlt =>
    exact registersDescribeBytes_counted (s := frRestart s) h (describes_frRestart s) hc hlt (fun _ => rfl)
      fun e => absurd e (by decide)
  | counted b h hb hr hlt =>
    exact registersDescribeBytes_counted h ((registersDescribeBytes_iff s).mp hs h) hc hlt (fun e => absurd e hb)
      fun _ => hr
  | readFailed v _ h => exact registersDescribeBytes_of_not_reading (not_reading_frEnd h _ _)
  | acknowledged k h =>
    have h' : (waSend k.toNat s).seq = .wa ∨ (waSend k.toNat s).seq = .hsWa := by simpa using h
    unfold waAccept
    split
    · exact registersDescribeBytes_waEnd h' _ _
    · exact registersDescribeBytes_of_not_reading (not_reading_of_writing h')
  | writeFailed v _ h => exact registersDescribeBytes_waEnd h _ _
  | delayCancelled => exact registersDescribeBytes_of_not_reading (by simp [Reading])
  | delayEnded => exact registersDescribeBytes_of_not_reading (not_reading_of_writing (.inr rfl))
  | wasReset => exact registersDescribeBytes_of_not_reading (by simp [Reading])
  | _ => exact hs

/-- Settles O59: a step is a move, or raises a fault and touches no byte of a read and no register of it. -/
theorem stepKeepsRegistersDescribeBytes : Obligations.StepKeepsRegistersDescribeBytes := by
  intro s t hinv hs h
  obtain ⟨-, ⟨-, rfl⟩ | ⟨r, rest, -, ⟨i, -, hm⟩ | ⟨c, -, rfl⟩ | rfl⟩⟩ := step_next h
  · exact hs
  · exact hm.registersDescribeBytes hinv.config hs
  · exact hs
  · exact hs

end Sys2Proof.Machine
end

section
/-! The statements about the commands and the host bus: what CMD does with a word (40_commands.md R110-R114), what each
access of the host bus returns, stores or refuses (R117-R119), and which steps touch FAULT and its cause (R116). -/

namespace Sys2Proof.Machine
open Sys2Proof.Safety

/-! ### Raised faults -/

theorem onlyFaultRaised_raiseFault (c : FaultCause) (s : State) : OnlyFaultRaised c s.answer s (raiseFault c s) := rfl

theorem onlyFaultRaised_readError (s : State) : OnlyFaultRaised .busErr (some 0#32) s (readError s) := rfl

/-- What a move does to FAULT and its cause. -/
inductive FaultChange (i : Instr) (s t : State) : Prop where
  | kept (same : SameFaults s t)
  | raised (c : FaultCause) (hc : c ≠ .none) (answer : Option Word) (h : OnlyFaultRaised c answer s t)
  | reset (hi : i = .reset) (h : t.fault = false)

theorem Move.faultChange {i : Instr} {s t : State} (h : Move i s t) : FaultChange i s t := by
  cases h with
  | faulted c hc => exact .raised c hc _ (onlyFaultRaised_raiseFault c s)
  | readFaulted => exact .raised .busErr (by decide) _ (onlyFaultRaised_readError s)
  | wasReset hi => exact .reset hi rfl
  | _ => exact .kept (by simp [SameFaults])

/-- Settles O47: a move keeps FAULT and its cause, raises a fault over the recorded one, or is RESET. -/
theorem onlyResetClearsFault : Obligations.OnlyResetClearsFault := by
  intro i s t h hreset hs
  cases (exec_move h).faultChange with
  | kept same =>
    obtain ⟨hfault, hcause⟩ := same
    exact ⟨hfault.trans hs, hcause⟩
  | raised c _ answer ht => rw [ht]; exact ⟨rfl, if_pos hs⟩
  | reset hi => exact absurd hi hreset

/-- Settles O48: the moves after which FAULT is newly 1 are those that raise a fault. -/
theorem faultingStepChangesNothingElse : Obligations.FaultingStepChangesNothingElse := by
  intro i s t h hs ht
  cases (exec_move h).faultChange with
  | kept same =>
    obtain ⟨hfault, -⟩ := same
    rw [hfault, hs] at ht; cases ht
  | raised c hc answer e => rw [e]; exact ⟨rfl, by simpa [hs] using hc⟩
  | reset _ hr => rw [hr] at ht; cases ht

/-! ### Commands -/

theorem writeCmd_of_illegal {w : Word} (h : cmdIllegal w = true) (s : State) :
    writeCmd w s = raiseFault .illegalCmd s := if_pos h

/-- Settles O9: CMD and the command decoder both find the word illegal, and each raises the fault. -/
theorem illegalCommandRaisesIllegalCmd : Obligations.IllegalCommandRaisesIllegalCmd := by
  intro s w hw
  have hill : cmdIllegal w = true := (cmdIllegal_iff w).mpr hw
  refine ⟨⟨_, congrArg Host.Outcome.next (writeCmd_of_illegal hill s), onlyFaultRaised_raiseFault ..⟩, ?_⟩
  intro rest hc hp
  have hstep := step_of_decode_error hc hp ((decodeCmd_error_iff w).mpr hill)
  exact ⟨_, hstep, onlyFaultRaised_raiseFault _ (takeRecord rest s)⟩

/-- Settles O10: a write to CMD runs the command its word spells. -/
theorem commandWriteRunsTheCommand : Obligations.CommandWriteRunsTheCommand :=
  fun s w _ h => exec_runsCommand (.inr ⟨w, rfl, h⟩) s

theorem startOperation_of_busy {s : State} (h : s.seq ≠ .idle) (inRange : Bool) (start : State → State) :
    startOperation inRange start s = raiseFault .cmdBusy s := if_pos h

theorem startOperation_of_idle {s : State} (h : s.seq = .idle) (inRange : Bool) (start : State → State) :
    startOperation inRange start s = if inRange = false then raiseFault .argRange s else start (clearDone s) :=
  if_neg (not_not.mpr h)

theorem commandFrStart_of_idle {s : State} (h : s.seq = .idle) (n : Half) :
    commandFrStart n s =
      if n.toNat ≤ s.cfg.rxBufCap then beginFr n .fr (clearDone s) else raiseFault .argRange s := by
  simp only [commandFrStart, startOperation_of_idle h, decide_eq_false_iff_not, ite_not]

theorem commandWaStart_of_idle {s : State} (h : s.seq = .idle) (n : Half) :
    commandWaStart n s =
      if n.toNat ≤ s.cfg.txBufCap then beginWa n .wa (clearDone s) else raiseFault .argRange s := by
  simp only [commandWaStart, startOperation_of_idle h, decide_eq_false_iff_not, ite_not]

/-- Settles O11: the busy check comes first, then the range; the operation that starts keeps FAULT. -/
theorem startCommandsAreRefused : Obligations.StartCommandsAreRefused := by
  refine ⟨fun s n i hs hi => ?_, fun s n hs hn => ?_, fun s n hs hn => ?_, fun s n i hs hi => ?_, fun s => ?_⟩
  · refine ⟨raiseFault .cmdBusy s, ?_, onlyFaultRaised_raiseFault ..⟩
    rcases hi with rfl | rfl | rfl <;> exact congrArg _ (startOperation_of_busy hs ..)
  · have e := (commandFrStart_of_idle hs n).trans (if_neg (by omega))
    exact ⟨_, congrArg Host.Outcome.next e, onlyFaultRaised_raiseFault ..⟩
  · have e := (commandWaStart_of_idle hs n).trans (if_neg (by omega))
    exact ⟨_, congrArg Host.Outcome.next e, onlyFaultRaised_raiseFault ..⟩
  · rcases hi with ⟨rfl, hn⟩ | ⟨rfl, hn⟩
    · have e := (commandFrStart_of_idle hs n).trans (if_pos hn)
      exact ⟨_, congrArg Host.Outcome.next e, by simp [SameFaults]⟩
    · have e := (commandWaStart_of_idle hs n).trans (if_pos hn)
      exact ⟨_, congrArg Host.Outcome.next e, by simp [SameFaults]⟩
  · exact ⟨commandCancel s, rfl, by simp [SameFaults]⟩

theorem inHandshake_iff (s : State) :
    s.inHandshake = true ↔ s.seq = .hsWa ∨ s.seq = .hsFr ∨ s.seq = .hsDelay := by
  simp [State.inHandshake, or_assoc]

/-- Settles O12: the six codes of `state` fall into those of a handshake and the others. -/
theorem cancelIsLatchedInAHandshake : Obligations.CancelIsLatchedInAHandshake := by
  refine fun s => ⟨fun h => congrArg _ (if_pos ((inHandshake_iff s).mpr h)), fun h => congrArg _ (if_neg ?_)⟩
  rw [inHandshake_iff]
  rcases h with h | h | h <;> simp [h]

/-! ### Word accesses -/

/-- The register offsets are multiples of 4 up to 0x24 (10_state.md R34). -/
theorem regAt_offset {a : HostAddr} {r : Reg} (h : regAt a = some r) : a.toNat % 4 = 0 ∧ a.toNat ≤ 0x24 := by
  unfold regAt at h
  split at h <;> cases h <;> omega

theorem exec_busRdW_reg {a : HostAddr} {r : Reg} (ha : regAt a = some r) (s : State) :
    exec (.busRdW a) s = .next (giveAnswer (readReg s r) s) := by
  simp [exec, execBusRdW, ha]

theorem exec_busRdW_unmapped {a : HostAddr} (ha : regAt a = none) (s : State) :
    exec (.busRdW a) s = .next (readError s) := by
  simp [exec, execBusRdW, ha]

theorem exec_busWrW_unmapped {a : HostAddr} (ha : regAt a = none) (d : Word) (s : State) :
    exec (.busWrW a d) s = .next (writeError s) := by
  simp [exec, execBusWrW, ha]

/-- A word read of a register, with the register as a number. -/
theorem exec_busRdW_toNat {a : HostAddr} {r : Reg} {s : State} {n : Nat} (ha : regAt a = some r)
    (hn : (readReg s r).toNat = n) :
    exec (.busRdW a) s = .next { s with answer := some (BitVec.ofNat 32 n) } := by
  rw [exec_busRdW_reg ha, ← hn, BitVec.ofNat_toNat, BitVec.setWidth_eq]
  rfl

/-- Settles O39: the fields a register puts side by side are added at their bits. -/
theorem registerReadsReturnTheRegisters : Obligations.RegisterReadsReturnTheRegisters := by
  intro s
  have ctrl : (readReg s .ctrl).toNat = 2 * s.irqEn.toNat + s.debugEn.toNat := by
    refine (toNat_append_eq _ _).trans ?_
    simp only [toNat_append_eq, BitVec.toNat_ofBool, BitVec.toNat_zero]
    ring
  have hsLimit : (readReg s .hsLimit).toNat = s.hsLimit.toNat := toNat_zeroExtend16 _
  have frCount : (readReg s .frCount).toNat = s.frEscCnt.toNat * 2 ^ 16 + s.frRes.toNat := toNat_append_eq ..
  have frLen : (readReg s .frLen).toNat =
      s.frEscFlag.toNat * 2 ^ 17 + s.frHaveLen.toNat * 2 ^ 16 + s.frLen.toNat := by
    refine (toNat_append_eq _ _).trans ?_
    simp only [toNat_append_eq, BitVec.toNat_ofBool, BitVec.toNat_zero]
    ring
  have frCap : (readReg s .frCap).toNat = s.frBufsize.toNat * 2 ^ 16 + s.frCnt.toNat := toNat_append_eq ..
  have waPos : (readReg s .waPos).toNat = s.waLen.toNat * 2 ^ 16 + s.waOff.toNat := toNat_append_eq ..
  exact ⟨exec_busRdW_reg (r := .cmd) rfl s, exec_busRdW_reg (r := .status) rfl s,
    exec_busRdW_reg (r := .result) rfl s, exec_busRdW_toNat rfl ctrl, exec_busRdW_toNat rfl hsLimit,
    exec_busRdW_reg (r := .hsAttempts) rfl s, exec_busRdW_toNat rfl frCount, exec_busRdW_toNat rfl frLen,
    exec_busRdW_toNat rfl frCap, exec_busRdW_toNat rfl waPos⟩

theorem writeReg_status (d : Word) (s : State) :
    writeReg .status d s = { s with done := s.done && !d.getLsbD 5 } := by
  simp only [writeReg]
  cases d.getLsbD 5 <;> simp [clearDone]

theorem writeLimit_eq (d : Word) (s : State) :
    writeLimit d s = { s with hsLimit := BitVec.ofNat 16 (d.toNat % 2 ^ 16) } := by
  have h : d.extractLsb' 0 16 = BitVec.ofNat 16 (d.toNat % 2 ^ 16) := by
    rw [← BitVec.toNat_inj, toNat_extractLsb'_div]; simp
  rw [writeLimit, h]

/-- Settles O41, register by register: STATUS, CTRL, HS_LIMIT, then the six read-only ones. -/
theorem registerWritesStoreOrRaiseBusErr : Obligations.RegisterWritesStoreOrRaiseBusErr := by
  intro s d
  refine ⟨congrArg _ (writeReg_status d s), rfl, congrArg _ (writeLimit_eq d s), fun a ha => ?_⟩
  refine ⟨writeError s, ?_, onlyFaultRaised_raiseFault ..⟩
  simp only [List.mem_cons, List.not_mem_nil, or_false] at ha
  rcases ha with rfl | rfl | rfl | rfl | rfl | rfl <;> rfl

/-- Settles O42: such an address is no register offset. -/
theorem unmappedWordAccessRaisesBusErr : Obligations.UnmappedWordAccessRaisesBusErr := by
  intro s a d h
  have ha : regAt a = none := Option.eq_none_iff_forall_ne_some.mpr fun r hr => h (regAt_offset hr)
  exact ⟨⟨_, exec_busRdW_unmapped ha s, onlyFaultRaised_readError s⟩,
    ⟨_, exec_busWrW_unmapped ha d s, onlyFaultRaised_raiseFault ..⟩⟩

/-! ### Byte accesses -/

theorem exec_busRdB_rx {a : HostAddr} {s : State} {i : Nat} (h : rxIndexAt s.cfg a = some i) :
    exec (.busRdB a) s = .next (giveAnswer (0#24 ++ rxByteAt s i) s) := by
  simp [exec, execBusRdB, h]

theorem exec_busRdB_tx {a : HostAddr} {s : State} {i : Nat} (hrx : rxIndexAt s.cfg a = none)
    (htx : txIndexAt s.cfg a = some i) : exec (.busRdB a) s = .next (giveAnswer (0#24 ++ txByteAt s i) s) := by
  simp [exec, execBusRdB, hrx, htx]

theorem exec_busRdB_unmapped {a : HostAddr} {s : State} (hrx : rxIndexAt s.cfg a = none)
    (htx : txIndexAt s.cfg a = none) : exec (.busRdB a) s = .next (readError s) := by
  simp [exec, execBusRdB, hrx, htx]

theorem exec_busWrB_tx {a : HostAddr} {s : State} {i : Nat} (h : txIndexAt s.cfg a = some i) (d : Byte) :
    exec (.busWrB a d) s = .next (writeTxbuf i d s) := by
  simp [exec, execBusWrB, h]

theorem exec_busWrB_unmapped {a : HostAddr} {s : State} (h : txIndexAt s.cfg a = none) (d : Byte) :
    exec (.busWrB a d) s = .next (writeError s) := by
  simp [exec, execBusWrB, h]

/-- An address outside the RXBUF window (20_memory.md R61). -/
theorem rxIndexAt_eq_none {s : State} (hc : ConfigOk s) {a : HostAddr}
    (h : ∀ i, a.toNat = 0x10000 + i → s.cfg.rxBufCap ≤ i) : rxIndexAt s.cfg a = none := by
  refine Option.eq_none_iff_forall_ne_some.mpr fun i hi => ?_
  obtain ⟨ha, hlt⟩ := (rxIndexAt_eq_some (by have := config_bounds hc; omega) a i).mp hi
  exact absurd (h i ha) (by omega)

/-- An address outside the TXBUF window (20_memory.md R61). -/
theorem txIndexAt_eq_none {s : State} (hc : ConfigOk s) {a : HostAddr}
    (h : ∀ i, a.toNat = 0x20000 + i → s.cfg.txBufCap ≤ i) : txIndexAt s.cfg a = none := by
  refine Option.eq_none_iff_forall_ne_some.mpr fun i hi => ?_
  obtain ⟨ha, hlt⟩ := (txIndexAt_eq_some (by have := config_bounds hc; omega) a i).mp hi
  exact absurd (h i ha) (by omega)

theorem zeroExtend8_eq_setWidth (b : Byte) : (0#24 ++ b : Word) = b.setWidth 32 := by
  simp [BitVec.setWidth_eq_append]

/-- Settles O43: the two windows do not meet, since no buffer is larger than 65535 bytes. -/
theorem byteReadsReturnTheBuffers : Obligations.ByteReadsReturnTheBuffers := by
  intro s a hc
  have hb := config_bounds hc
  refine ⟨fun i ha hi => ?_, fun i ha hi => ?_, fun hrx htx => ?_⟩
  · rw [exec_busRdB_rx ((rxIndexAt_eq_some (by omega) a i).mpr ⟨ha, hi⟩), zeroExtend8_eq_setWidth]
    rfl
  · have hrx : rxIndexAt s.cfg a = none := rxIndexAt_eq_none hc fun j hj => by omega
    rw [exec_busRdB_tx hrx ((txIndexAt_eq_some (by omega) a i).mpr ⟨ha, hi⟩), zeroExtend8_eq_setWidth]
    rfl
  · exact ⟨_, exec_busRdB_unmapped (rxIndexAt_eq_none hc hrx) (txIndexAt_eq_none hc htx),
      onlyFaultRaised_readError s⟩

/-- Settles O44, by the TXBUF window and the busy check of WA. -/
theorem byteWritesReachTxbufOnly : Obligations.ByteWritesReachTxbufOnly := by
  intro s a d hc
  have write (i : Nat) (ha : a.toNat = 0x20000 + i) (hi : i < s.cfg.txBufCap) :
      exec (.busWrB a d) s = .next (writeTxbuf i d s) :=
    exec_busWrB_tx ((txIndexAt_eq_some (by have := config_bounds hc; omega) a i).mpr ⟨ha, hi⟩) d
  refine ⟨fun i ha hi hs => ?_, fun i ha hi hs => ?_, fun h => ?_⟩
  · refine ⟨txStore i d s, (write i ha hi).trans (congrArg _ (if_neg hs)), txByteAt_txStore_same i d s,
      fun j hj => txByteAt_txStore_ne d s hj, rxByteAt_congr rfl rfl, rfl⟩
  · exact ⟨_, (write i ha hi).trans (congrArg _ (if_pos hs)), onlyFaultRaised_raiseFault ..⟩
  · exact ⟨_, exec_busWrB_unmapped (txIndexAt_eq_none hc h) d, onlyFaultRaised_raiseFault ..⟩

end Sys2Proof.Machine
end

section
/-! The statements about WriteAll (41_writeall.md R130-R140): what its start offers, what an acknowledgement sends, how a
write ends and after how many responses, and that nothing sent or emitted is withdrawn (R137). -/

namespace Sys2Proof.Machine
open Sys2Proof.Safety

/-! ### The history -/

theorem txStream_prefix_of_events {s t : State} (h : s.events <+: t.events) : s.txStream <+: t.txStream := by
  obtain ⟨es, he⟩ := h
  exact ⟨txBytesOf es, by rw [State.txStream, State.txStream, ← he, txBytesOf_append]⟩

/-- Settles O49: a move only appends to the history, and the TX stream is read off the history in order. -/
theorem historyOnlyGrows : Obligations.HistoryOnlyGrows :=
  ⟨fun _ _ _ h => ⟨(exec_move h).events_prefix, txStream_prefix_of_events (exec_move h).events_prefix⟩,
    fun _ _ h => ⟨step_events_prefix h, txStream_prefix_of_events (step_events_prefix h)⟩⟩

/-! ### The bytes offered and sent -/

theorem txSource_of_wa {s : State} (h : s.seq = .wa) (i n : Nat) : txSource s i n = txBytes s i n :=
  if_neg (by simp [h])

theorem txBytes_add (s : State) (i m n : Nat) : txBytes s i (m + n) = txBytes s i m ++ txBytes s (i + m) n := by
  simp [txBytes, ← List.map_append, List.range'_append_1]

@[simp] theorem waSend_txStream (k : Nat) (s : State) :
    (waSend k s).txStream = s.txStream ++ txSource s s.waOff.toNat k := emitTx_txStream ..

theorem waSend_zero (s : State) : waSend 0 s = s := by
  have h : txSource s s.waOff.toNat 0 = [] := by simp [txSource, txBytes]
  simp [waSend, waAdvance, emitTx, h]

/-- The end of a write moves `wa.off` no further. -/
theorem waAccept_waOff (k : Nat) (s : State) : (waAccept k s).waOff = (waSend k s).waOff := by
  unfold waAccept; split <;> simp

/-- The end of a write emits nothing. -/
theorem waAccept_events (k : Nat) (s : State) : (waAccept k s).events = (waSend k s).events := by
  unfold waAccept; split
  · exact waEnd_ok_events ..
  · rfl

/-- The event of an acknowledgement, none if it accepts nothing. -/
theorem waSend_events_of_le {k : Nat} {s : State} (h : s.waOff.toNat + k ≤ txSourceSize s) :
    (waSend k s).events = s.events ++ (if k = 0 then [] else [.tx (txSource s s.waOff.toNat k)]) := by
  simp only [waSend_events, ← List.length_eq_zero_iff, txSource_length h]

/-- Settles O15: the accepted command opens the write at offset 0 and touches no buffer. -/
theorem writeStartOffersTheBuffer : Obligations.WriteStartOffersTheBuffer := by
  intro s n hs hn hcap
  have he : commandWaStart n s = waOpen n .wa (clearDone s) := by
    rw [commandWaStart_of_idle hs, if_pos hcap, beginWa_of_pos hn]
  have offered : txSource (waOpen n .wa (clearDone s)) 0 n.toNat = txBytes s 0 n.toNat :=
    (txSource_of_wa rfl 0 n.toNat).trans (txBytes_congr rfl rfl 0 n.toNat)
  refine ⟨_, congrArg Host.Outcome.next he, ?_⟩
  simp [txOffered, offered, SameEnvironment, SameControl, SameOutcome, SameFaults, SameFrameRegs, SameRxbuf, SameTxbuf,
    rxByteAt, txByteAt]

/-! ### Acknowledgements -/

/-- Settles O30: what an accepted acknowledgement sends and counts is the same whether or not the write ends with it. -/
theorem acknowledgedBytesAreSent : Obligations.AcknowledgedBytesAreSent := by
  intro k s hw hok hk
  obtain ⟨he, hlen, hsrc⟩ := exec_txAck hw hok hk
  have events := (waAccept_events k.toNat s).trans (waSend_events_of_le hsrc)
  have hzero : k.toNat = 0 ↔ k = 0 := by rw [← BitVec.toNat_inj]; rfl
  refine ⟨_, he, ?_, by simpa only [hzero] using events, (congrArg _ (waAccept_waOff ..)).trans (waSend_off hlen),
    waAccept_waLen .., waAccept_hsAttempts .., fun hlt => ?_, ?_⟩
  · rw [State.txStream, waAccept_events]; exact waSend_txStream ..
  · rw [waAccept_part (by unfold txOffered at hlt; omega)]
    simp [SameSequencing, SameOutcome, SameFrameRegs, SameRxbuf, rxByteAt]
  · simp [SameEnvironment, SameControl, SameFaults, SameTxbuf, txByteAt]

theorem exec_txAck_last {k : Word} {s : State} (hw : s.seq = .wa ∨ s.seq = .hsWa) (h : WriteOk s)
    (hk : k.toNat = txOffered s) :
    exec (.txAck k) s = .next (waEnd (0#16 ++ s.waLen) .ok (waSend k.toNat s)) := by
  obtain ⟨he, -, -⟩ := exec_txAck hw h hk.le
  obtain ⟨hoff, -, -⟩ := h
  rw [he, waAccept_last (by unfold txOffered at hk; omega)]

theorem exec_txAck_part {k : Word} {s : State} (hw : s.seq = .wa ∨ s.seq = .hsWa) (h : WriteOk s)
    (hk : k.toNat < txOffered s) : exec (.txAck k) s = .next (waSend k.toNat s) := by
  obtain ⟨he, -, -⟩ := exec_txAck hw h hk.le
  rw [he, waAccept_part (by unfold txOffered at hk; omega)]

/-- A request always offers a byte (10_state.md R41). -/
theorem txOffered_pos {s : State} (hw : s.seq = .wa ∨ s.seq = .hsWa) (h : WriteOk s) : 0 < txOffered s := by
  obtain ⟨-, hwa, hhs⟩ := h
  unfold txOffered
  rcases hw with hw | hw
  · have := hwa hw; omega
  · obtain ⟨hoff, hlen⟩ := hhs hw
    rw [hlen]; exact Nat.sub_pos_of_lt hoff

theorem endedWith_endOp (op : LastOp) (r : Word) (c : Cause) (s : State) : EndedWith op r c (endOp op r c s) :=
  ⟨rfl, rfl, rfl, rfl, rfl, rfl⟩

/-- Settles O31: a write in WA ends the operation; one in HS_WA begins the read of the reply, of HS_BUF_SIZE bytes. -/
theorem lastAcknowledgementEndsTheWrite : Obligations.LastAcknowledgementEndsTheWrite := by
  intro k s hc hok hk
  obtain ⟨hsize, -⟩ := hsBufSize_toNat hc
  have reply (hs : s.seq = .hsWa) : exec (.txAck k) s =
      .next (beginFr (BitVec.ofNat 16 s.cfg.hsBufSize) .hsFr (waSend k.toNat s)) := by
    rw [exec_txAck_last (.inr hs) hok hk, waEnd_of_hsWa (by simpa using hs), hsAfterWrite, if_pos rfl, waSend_cfg]
  refine ⟨fun hs => ?_, fun hs hb => ?_, fun hs hb => ?_⟩
  · have he := exec_txAck_last (.inl hs) hok hk
    rw [waEnd_of_wa (by simpa using hs)] at he
    exact ⟨_, he, endedWith_endOp .., by simp [SameFrameRegs], rxByteAt_congr (by simp) (by simp)⟩
  · have hn : BitVec.ofNat 16 s.cfg.hsBufSize ≠ 0 := fun e => hb (by rw [← hsize, e]; rfl)
    refine ⟨_, (reply hs).trans (by rw [beginFr_of_pos hn]), ?_⟩
    simpa [SameOutcome] using hsize
  · have he := reply hs
    rw [hb, show BitVec.ofNat 16 0 = 0 from rfl, beginFr_zero, frEnd_of_nonpos _ (.inr rfl) (by decide)] at he
    exact ⟨_, he, endedWith_endOp ..⟩

/-- Settles O32. -/
theorem overAcknowledgementRaisesTxOverack : Obligations.OverAcknowledgementRaisesTxOverack := by
  intro k s hw hk
  have he : exec (.txAck k) s = .next (raiseFault .txOverack s) := by
    simp only [exec, execTxAck]
    rw [if_pos ((awaitsTx_iff s).mpr hw), if_pos hk]
  exact ⟨_, he, onlyFaultRaised_raiseFault ..⟩

/-- Settles O33: a byte is always offered, so no bytes are never the last ones, and sending none changes nothing. -/
theorem zeroAcknowledgementChangesNothing : Obligations.ZeroAcknowledgementChangesNothing := by
  intro s hw hok
  exact (exec_txAck_part (k := 0) hw hok (txOffered_pos hw hok)).trans (congrArg _ (waSend_zero s))

/-! ### Failures -/

theorem waEnd_ioWrite {s : State} (hw : s.seq = .wa ∨ s.seq = .hsWa) (v : Word) :
    waEnd v .ioWrite s = endOp (if s.seq = .wa then .wa else .hs) v .ioWrite s := by
  rcases hw with hw | hw
  · simp [waEnd_of_wa, hw]
  · simp [waEnd_of_hsWa, hw, hsAfterWrite]

/-- Settles O34: a failure ends the operation by `end_op` alone. -/
theorem writeFailureEndsTheWrite : Obligations.WriteFailureEndsTheWrite := by
  intro v s hw
  have he : exec (.txFail v) s = .next (endOp (if s.seq = .wa then .wa else .hs) v .ioWrite s) := by
    rw [← waEnd_ioWrite hw]
    exact if_pos ((awaitsTx_iff s).mpr hw)
  refine ⟨_, he, endedWith_endOp .., ?_⟩
  simp [SameWriteRegs, SameFrameRegs, SameRxbuf, SameTxbuf, SameEnvironment, SameControl, SameFaults, rxByteAt, txByteAt]

/-! ### A whole write -/

/-- The first `m` responses to a request of `n` bytes, each accepting the smaller of `K` and what remains (41_writeall.md
R138). -/
def acknowledgements (K n m : Nat) : List Record :=
  (List.range m).map fun j => encode (.txAck (BitVec.ofNat 32 (min K (n - j * K))))

theorem acknowledgements_succ (K n m : Nat) :
    acknowledgements K n (m + 1) = encode (.txAck (BitVec.ofNat 32 (min K n))) :: acknowledgements K (n - K) m := by
  simp [acknowledgements, List.range_succ_eq_map, Function.comp_def, Nat.succ_mul, Nat.sub_sub, Nat.add_comm]

theorem step_of_decode {s : State} {r : Record} {rest : List Record} {i : Instr} (hc : ConfigOk s)
    (hp : s.pending = r :: rest) (hd : decode r = .ok i) : step s = exec i (takeRecord rest s) := by
  rw [ConfigOk] at hc
  simp [step, hc, hp, hd]

section
variable {s : State} {k : Word} {rest : List Record}

theorem step_txAck_last (hc : ConfigOk s) (hok : WriteOk s) (hs : s.seq = .wa)
    (hp : s.pending = encode (.txAck k) :: rest) (hk : k.toNat = txOffered s) :
    step s = .next (endOp .wa (0#16 ++ s.waLen) .ok (waSend k.toNat (takeRecord rest s))) := by
  rw [step_of_decode hc hp (encodedInstructionDecodesBack _ rfl),
    exec_txAck_last (s := takeRecord rest s) (.inl hs) hok hk, waEnd_of_wa (by simpa using hs), takeRecord_waLen]

theorem step_txAck_part (hc : ConfigOk s) (hok : WriteOk s) (hs : s.seq = .wa)
    (hp : s.pending = encode (.txAck k) :: rest) (hk : k.toNat < txOffered s) :
    step s = .next (waSend k.toNat (takeRecord rest s)) :=
  (step_of_decode hc hp (encodedInstructionDecodesBack _ rfl)).trans
    (exec_txAck_part (s := takeRecord rest s) (.inl hs) hok hk)

end

theorem txOffered_waSend {k : Nat} {s : State} (h : s.waOff.toNat + k ≤ s.waLen.toNat) :
    txOffered (waSend k s) = txOffered s - k := by
  rw [txOffered, waSend_off h, waSend_waLen, txOffered]; omega

theorem writeOk_waSend {k : Nat} {s : State} (h : WriteOk s) (hk : s.waOff.toNat + k < s.waLen.toNat) :
    WriteOk (waSend k s) := by
  obtain ⟨-, hwa, hhs⟩ := h
  rw [WriteOk, waSend_off hk.le]
  refine ⟨by simpa using hk.le, fun hs => ?_, fun hs => ?_⟩
  · obtain ⟨-, hcap⟩ := hwa (by simpa using hs)
    simpa using ⟨hk, hcap⟩
  · obtain ⟨-, hlen⟩ := hhs (by simpa using hs)
    rw [hlen] at hk
    exact ⟨hk, by simpa using hlen⟩

/-- The TX stream as it stands once everything that is offered has been accepted. -/
def streamWhenAccepted (s : State) : List Byte := s.txStream ++ txSource s s.waOff.toNat (txOffered s)

theorem streamWhenAccepted_waSend {k : Nat} {s : State} (hs : s.seq = .wa) (hk : s.waOff.toNat + k ≤ s.waLen.toNat) :
    streamWhenAccepted (waSend k s) = streamWhenAccepted s := by
  have hu : (waSend k s).seq = .wa := (waSend_seq k s).trans hs
  have hle : k ≤ txOffered s := by unfold txOffered; omega
  rw [streamWhenAccepted, streamWhenAccepted, waSend_txStream, txSource_of_wa hu, txSource_of_wa hs, txSource_of_wa hs,
    txBytes_congr (waSend_txbuf k s) (waSend_txDraw k s), waSend_off hk, txOffered_waSend hk, List.append_assoc,
    ← txBytes_add, Nat.add_sub_cancel' hle]

/-- What remains of a standalone write is sent, and the write ends, after as many responses as bring the total of `K` bytes
each to it. -/
theorem run_acknowledgements {K : Nat} (rest : List Record) (m : Nat) :
    ∀ s : State, ConfigOk s → WriteOk s → s.seq = .wa → m * K < txOffered s → txOffered s ≤ (m + 1) * K →
      s.pending = acknowledgements K (txOffered s) (m + 1) ++ rest →
      ∃ t : State, Host.Core.run core (m + 1) s = .next t ∧ EndedWith .wa (0#16 ++ s.waLen) .ok t ∧
        t.txStream = streamWhenAccepted s ∧ t.pending = rest ∧ t.fault = s.fault := by
  induction m with
  | zero =>
    intro s hc hok hs hlo hhi hp
    have hk : (BitVec.ofNat 32 (min K (txOffered s))).toNat = txOffered s := by
      have := s.waLen.isLt
      rw [BitVec.toNat_ofNat, Nat.min_eq_right (by omega), Nat.mod_eq_of_lt (by unfold txOffered; omega)]
    rw [acknowledgements_succ] at hp
    have hstep := step_txAck_last hc hok hs hp hk
    rw [hk] at hstep
    exact ⟨_, run_succ_of_step (M := core) hstep 0, endedWith_endOp .., waSend_txStream ..,
      waSend_pending .., waSend_fault ..⟩
  | succ m ih =>
    intro s hc hok hs hlo hhi hp
    rw [Nat.succ_mul] at hlo hhi
    have hK : K < txOffered s := by omega
    have hlen : s.waOff.toNat + K < s.waLen.toNat := by unfold txOffered at hK; omega
    have hk : (BitVec.ofNat 32 (min K (txOffered s))).toNat = K := by
      have := s.waLen.isLt
      rw [BitVec.toNat_ofNat, Nat.min_eq_left hK.le, Nat.mod_eq_of_lt (by omega)]
    rw [acknowledgements_succ] at hp
    have hstep := step_txAck_part hc hok hs hp (by rwa [hk])
    rw [hk] at hstep
    have hoff (rs : List Record) : txOffered (waSend K (takeRecord rs s)) = txOffered s - K :=
      txOffered_waSend hlen.le
    obtain ⟨t, hrun, hend, htx, hpending, hfault⟩ :=
      ih (waSend K (takeRecord (acknowledgements K (txOffered s - K) (m + 1) ++ rest) s))
        (by simpa [ConfigOk] using hc) (writeOk_waSend hok hlen) ((waSend_seq ..).trans hs) (by rw [hoff]; omega)
        (by rw [hoff]; omega) (by rw [hoff]; exact waSend_pending ..)
    exact ⟨t, (run_succ_of_step (M := core) hstep _).trans hrun, by simpa using hend,
      htx.trans (streamWhenAccepted_waSend (s := takeRecord _ s) hs hlen.le), hpending, by simpa using hfault⟩

/-- Settles O35, by induction on the number of responses still to come. -/
theorem writeAllTakesCeilingOfLengthOverK : Obligations.WriteAllTakesCeilingOfLengthOverK := by
  intro s K rest hinv hs hoff hK hp
  have hn : txOffered s = s.waLen.toNat := by rw [txOffered, hoff]; rfl
  have hpos : 0 < s.waLen.toNat := hn ▸ txOffered_pos (.inl hs) hinv.write
  obtain ⟨m, hm⟩ : ∃ m, (s.waLen.toNat + K - 1) / K = m + 1 :=
    Nat.exists_eq_succ_of_ne_zero (Nat.div_pos (by omega) hK).ne'
  have hlo := Nat.div_mul_le_self (s.waLen.toNat + K - 1) K
  have hhi := Nat.lt_div_mul_add hK (a := s.waLen.toNat + K - 1)
  rw [hm] at hlo hhi
  have h := run_acknowledgements (K := K) rest m s hinv.config hinv.write hs (by rw [Nat.succ_mul] at hlo; omega)
    (by omega) (by rw [hn, ← hm]; exact hp)
  rwa [streamWhenAccepted, txSource_of_wa hs, hn, hoff, ← hm] at h

end Sys2Proof.Machine
end

section
/-! SUPPORT. The invariant of the registers, kept by every move: the capacity account and the frame registers of a read
(42_framereader.md R166), the write registers (41_writeall.md R134) and the flags (10_state.md R24, R35). -/

namespace Sys2Proof.Machine
open Sys2Proof.Safety

/-- A step changes nothing, or is a move after it has taken its record. -/
theorem step_move {s t : State} (h : step s = .next t) : t = s ∨ ∃ i rest, Move i (takeRecord rest s) t := by
  obtain ⟨-, ⟨-, e⟩ | ⟨r, rest, -, ⟨i, -, hm⟩ | ⟨c, hc, rfl⟩ | rfl⟩⟩ := step_next h
  · exact .inl e
  · exact .inr ⟨i, rest, hm⟩
  · exact .inr ⟨.cancel, rest, .faulted c hc⟩
  · exact .inr ⟨.cancel, rest, .readFaulted⟩

/-! ### The ends of reads and writes -/

/-- The end of a read ends an operation, or starts the retry delay of a handshake. -/
theorem frEnd_cases {s : State} (h : Reading s) (r : Word) (c : Cause) :
    (∃ op r' c', op ≠ .none ∧ (c' = c ∨ c' = .ok ∨ c' = .limit) ∧
      frEnd r c s = endOp op r' c' (forgetAtEnd r (dumpAtEnd r s))) ∨
    frEnd r c s = enterDelay (forgetAtEnd r (dumpAtEnd r s)) := by
  rcases h with h | h
  · exact .inl ⟨.fr, r, c, by decide, .inl rfl, frEnd_of_fr h⟩
  · rw [frEnd_of_hsFr h]
    rcases hsAfterRead_cases r c (forgetAtEnd r (dumpAtEnd r s)) with ⟨-, e⟩ | ⟨-, -, e⟩ | ⟨-, -, -, e⟩ | ⟨-, -, -, e⟩
    · exact .inl ⟨.hs, r, c, by decide, .inl rfl, e⟩
    · exact .inl ⟨.hs, r, .ok, by decide, .inr (.inl rfl), e⟩
    · exact .inl ⟨.hs, 0, .limit, by decide, .inr (.inr rfl), e⟩
    · exact .inr e

/-- The end of a write ends an operation, or starts the read of a handshake. -/
theorem waEnd_cases {s : State} (h : s.seq = .wa ∨ s.seq = .hsWa) (r : Word) (c : Cause) :
    (∃ op c', op ≠ .none ∧ (c' = c ∨ c' = .ioWrite) ∧ waEnd r c s = endOp op r c' s) ∨
    (s.seq = .hsWa ∧ waEnd r c s = beginFr (BitVec.ofNat 16 s.cfg.hsBufSize) .hsFr s) := by
  rcases h with h | h
  · exact .inl ⟨.wa, c, by decide, .inl rfl, waEnd_of_wa h⟩
  · rw [waEnd_of_hsWa h]
    unfold hsAfterWrite
    split
    · exact .inr ⟨h, rfl⟩
    · exact .inl ⟨.hs, .ioWrite, by decide, .inr rfl, rfl⟩

/-- A read that still runs after the tests has neither a complete frame nor a full buffer. -/
theorem frContinue_of_reading {s : State} (h : Reading s) (h' : Reading (frContinue s)) :
    frComplete s = false ∧ s.frCnt ≠ 0 ∧ frContinue s = s := by
  rcases frContinue_cases s with ⟨-, e⟩ | ⟨-, -, e⟩ | ⟨hc, hn, e⟩
  · rw [e] at h'; exact absurd h' (not_reading_frEnd h _ _)
  · rw [e] at h'; exact absurd h' (not_reading_frEnd h _ _)
  · exact ⟨hc, hn, e⟩

/-! ### The accepted byte -/

/-- Steps (1) to (7) on a byte that is accepted, up to the tests: a sync byte restarts the frame first
(42_framereader.md R154, R155). -/
def frAccept (b : Byte) (s : State) : State := frCounted b (if b = Config.sync then frRestart s else s)

theorem frAccept_sync (s : State) : frAccept Config.sync s = frCounted Config.sync (frRestart s) := rfl

theorem frAccept_of_ne_sync {b : Byte} (h : b ≠ Config.sync) (s : State) : frAccept b s = frCounted b s := by
  rw [frAccept, if_neg h]

@[simp] theorem frAccept_seq (b : Byte) (s : State) : (frAccept b s).seq = s.seq := by unfold frAccept; split <;> simp
@[simp] theorem frAccept_done (b : Byte) (s : State) : (frAccept b s).done = s.done := by unfold frAccept; split <;> simp
@[simp] theorem frAccept_fault (b : Byte) (s : State) : (frAccept b s).fault = s.fault := by unfold frAccept; split <;> simp
@[simp] theorem frAccept_cancelPending (b : Byte) (s : State) : (frAccept b s).cancelPending = s.cancelPending := by unfold frAccept; split <;> simp
@[simp] theorem frAccept_lastOp (b : Byte) (s : State) : (frAccept b s).lastOp = s.lastOp := by unfold frAccept; split <;> simp
@[simp] theorem frAccept_cause (b : Byte) (s : State) : (frAccept b s).cause = s.cause := by unfold frAccept; split <;> simp
@[simp] theorem frAccept_result (b : Byte) (s : State) : (frAccept b s).result = s.result := by unfold frAccept; split <;> simp
@[simp] theorem frAccept_debugEn (b : Byte) (s : State) : (frAccept b s).debugEn = s.debugEn := by unfold frAccept; split <;> simp
@[simp] theorem frAccept_hsAttempts (b : Byte) (s : State) : (frAccept b s).hsAttempts = s.hsAttempts := by unfold frAccept; split <;> simp
@[simp] theorem frAccept_frBufsize (b : Byte) (s : State) : (frAccept b s).frBufsize = s.frBufsize := by unfold frAccept; split <;> simp
@[simp] theorem frAccept_events (b : Byte) (s : State) : (frAccept b s).events = s.events := by unfold frAccept; split <;> simp
@[simp] theorem frAccept_pending (b : Byte) (s : State) : (frAccept b s).pending = s.pending := by unfold frAccept; split <;> simp

theorem reading_frAccept {s : State} (h : Reading s) (b : Byte) : Reading (frAccept b s) := by
  rwa [Reading, frAccept_seq]

theorem rxByteAt_frCounted_same (b : Byte) (s : State) : rxByteAt (frCounted b s) s.frRes.toNat = b := by
  simp [rxByteAt, memLookup_memInsert_same]

theorem rxByteAt_frCounted_ne {s : State} {j : Nat} (h : j ≠ s.frRes.toNat) (b : Byte) :
    rxByteAt (frCounted b s) j = rxByteAt s j := by
  simp [rxByteAt, memLookup_memInsert_ne _ _ h]

theorem toNat_frRes_frCount {s : State} (h : s.frRes.toNat < 65535) :
    (frCount s).frRes.toNat = s.frRes.toNat + 1 := by
  rw [frCount_frRes, BitVec.toNat_add]; simp; omega

theorem toNat_frEscCnt_frMarker {s : State} (h : s.frEscCnt.toNat < 65535) :
    (frMarker s).frEscCnt.toNat = s.frEscCnt.toNat + 1 := by
  rw [frMarker_frEscCnt, BitVec.toNat_add]; simp; omega

/-! ### What a move does to the read -/

/-- A read of `n` bytes with nothing counted (42_framereader.md R152). -/
structure Unsynced (n : Half) (s : State) : Prop where
  bufsize : s.frBufsize = n
  cnt : s.frCnt = n
  res : s.frRes = 0
  escCnt : s.frEscCnt = 0
  len : s.frLen = 0
  haveLen : s.frHaveLen = false
  escFlag : s.frEscFlag = false
  unlisted : s.rxbuf = []

theorem unsynced_frRestart (s : State) : Unsynced s.frBufsize (frRestart s) := ⟨rfl, rfl, rfl, rfl, rfl, rfl, rfl, rfl⟩

theorem unsynced_beginFr (n : Half) (mode : Seq) (s : State) : Unsynced n (beginFr n mode s) := by
  refine ⟨?_, ?_, ?_, ?_, ?_, ?_, ?_, beginFr_rxbuf ..⟩ <;> (unfold beginFr; split <;> simp)

theorem not_reading_beginFr_zero {mode : Seq} (hm : mode = .fr ∨ mode = .hsFr) (s : State) :
    ¬ Reading (beginFr 0 mode s) := not_reading_frEnd (s := frOpen 0 mode s) hm _ _

/-- What a move does to the frame registers, and to RXBUF while a read runs. -/
inductive ReadChange (s t : State) : Prop where
  | kept (regs : SameFrameRegs s t) (buf : Reading t → Reading s ∧ t.rxbuf = s.rxbuf ∧ t.rxDraw = s.rxDraw)
  | opened (n : Half) (hn : n.toNat ≤ s.cfg.rxBufCap) (h : Unsynced n t) (pos : Reading t → n ≠ 0)
  | accepted (b : Byte) (h : Reading s) (hb : b ≠ Config.sync → s.frRes ≠ 0) (e : t = frContinue (frAccept b s))

theorem readChange_beginFr {mode : Seq} (hm : mode = .fr ∨ mode = .hsFr) {n : Half} {s u : State}
    (hn : n.toNat ≤ s.cfg.rxBufCap) : ReadChange s (beginFr n mode u) :=
  .opened n hn (unsynced_beginFr n mode u) fun h e => not_reading_beginFr_zero hm u (e ▸ h)

theorem readChange_frEnd {s : State} (h : Reading s) (r : Word) (c : Cause) : ReadChange s (frEnd r c s) :=
  .kept (by simp [SameFrameRegs]) fun h' => absurd h' (not_reading_frEnd h r c)

theorem readChange_waEnd {s u : State} (hc : ConfigOk s) (h : u.seq = .wa ∨ u.seq = .hsWa) (regs : SameFrameRegs s u)
    (cfg : u.cfg = s.cfg) (r : Word) (c : Cause) : ReadChange s (waEnd r c u) := by
  rcases waEnd_cases h r c with ⟨op, c', -, -, e⟩ | ⟨-, e⟩ <;> rw [e]
  · exact .kept regs fun h' => absurd h' (by simp [Reading])
  · obtain ⟨hsize, hcap⟩ := hsBufSize_toNat hc
    exact readChange_beginFr (.inr rfl) (by rw [cfg, hsize]; exact hcap)

theorem Move.readChange {i : Instr} {s t : State} (h : Move i s t) (hc : ConfigOk s) : ReadChange s t := by
  cases h with
  | handshakeStarted | delayCancelled | delayEnded => exact .kept (by simp [SameFrameRegs]) (by simp [Reading])
  | readStarted n _ _ hn => exact readChange_beginFr (.inl rfl) hn
  | writeStarted n =>
    by_cases hn : n = 0
    · rw [hn, beginWa_zero]
      exact readChange_waEnd (u := waOpen 0 .wa (clearDone s)) hc (.inl rfl) (by simp [SameFrameRegs]) rfl _ _
    · rw [beginWa_of_pos hn]
      exact .kept (by simp [SameFrameRegs]) (by simp [Reading])
  | syncFailed h => exact readChange_frEnd h _ _
  | synced h => exact .accepted Config.sync h (fun e => absurd rfl e) rfl
  | counted b h hb hr => exact .accepted b h (fun _ => hr) (by rw [frAccept_of_ne_sync hb])
  | readFailed v _ h => exact readChange_frEnd h _ _
  | acknowledged k h =>
    have h' : (waSend k.toNat s).seq = .wa ∨ (waSend k.toNat s).seq = .hsWa := by simpa using h
    have regs : SameFrameRegs s (waSend k.toNat s) := by simp [SameFrameRegs]
    unfold waAccept
    split
    · exact readChange_waEnd hc h' regs (by simp) _ _
    · exact .kept regs fun hr => absurd hr (not_reading_of_writing h')
  | writeFailed v _ h => exact readChange_waEnd hc h (by simp [SameFrameRegs]) rfl _ _
  | wasReset => exact .opened 0 (Nat.zero_le _) ⟨rfl, rfl, rfl, rfl, rfl, rfl, rfl, rfl⟩ (by simp [Reading])
  | _ => exact .kept ⟨rfl, rfl, rfl, rfl, rfl, rfl, rfl⟩ fun h => ⟨h, rfl, rfl⟩

/-! ### The capacity account -/

theorem capacityOk_of_same {s t : State} (h : SameFrameRegs s t) (hc : t.cfg = s.cfg) (hs : CapacityOk s) :
    CapacityOk t := by
  obtain ⟨hres, -, -, -, -, hcnt, hsize⟩ := h
  rwa [CapacityOk, hres, hcnt, hsize, hc]

theorem Unsynced.capacityOk {n : Half} {s : State} (h : Unsynced n s) (hn : n.toNat ≤ s.cfg.rxBufCap) :
    CapacityOk s := by
  rw [CapacityOk, h.res, h.cnt, h.bufsize]
  exact ⟨rfl, hn⟩

/-- A counted byte takes one byte of capacity (42_framereader.md R161). -/
theorem capacityOk_frCounted {s : State} (h : CapacityOk s) (hpos : 0 < s.frCnt.toNat) (b : Byte) :
    CapacityOk (frCounted b s) := by
  obtain ⟨hsum, hcap⟩ := h
  have := s.frBufsize.isLt
  simp only [CapacityOk, frCounted_frRes, frCounted_frCnt, frCounted_frBufsize, frCounted_cfg]
  refine ⟨?_, hcap⟩
  rw [BitVec.toNat_add, BitVec.toNat_sub]
  simp only [BitVec.reduceToNat, BitVec.ofNat_eq_ofNat]
  omega

theorem capacityOk_frAccept {s : State} (h : CapacityOk s) (hpos : 0 < s.frCnt.toNat) (b : Byte) :
    CapacityOk (frAccept b s) := by
  obtain ⟨hsum, hcap⟩ := h
  by_cases hb : b = Config.sync
  · subst hb
    exact capacityOk_frCounted ((unsynced_frRestart s).capacityOk hcap) (by rw [frRestart_frCnt]; omega) _
  · rw [frAccept_of_ne_sync hb]
    exact capacityOk_frCounted ⟨hsum, hcap⟩ hpos b

theorem capacityOk_frContinue {s : State} (h : CapacityOk s) : CapacityOk (frContinue s) :=
  capacityOk_of_same (by simp [SameFrameRegs]) (by simp) h

theorem Move.capacityOk {i : Instr} {s t : State} (h : Move i s t) (hs : Inv s) : CapacityOk t := by
  cases h.readChange hs.config with
  | kept regs => exact capacityOk_of_same regs h.environment.1 hs.capacity
  | opened n hn hu => exact hu.capacityOk (by rwa [h.environment.1])
  | accepted b hr _ e =>
    obtain ⟨hpos, -⟩ := hs.read hr
    rw [e]
    exact capacityOk_frContinue (capacityOk_frAccept hs.capacity hpos b)

/-! ### The frame registers -/

/-- What the frame registers say of each other and of the bytes listed, while a byte is being received too
(42_framereader.md R157-R159). -/
structure FrameOk (s : State) : Prop where
  synced : 1 ≤ s.frRes.toNat → s.frEscCnt.toNat + 1 ≤ s.frRes.toNat ∧ rxByteAt s 0 = Config.sync
  fresh : s.frRes = 0 → s.frEscCnt = 0 ∧ s.frLen = 0 ∧ s.frHaveLen = false ∧ s.frEscFlag = false
  known : s.frHaveLen = true ↔ s.frEscCnt.toNat + 3 ≤ s.frRes.toNat
  listed : s.rxbuf.map Prod.fst = List.range s.frRes.toNat

/-- Between steps a running read also has room for a byte and an incomplete frame. -/
theorem readOk_iff (s : State) :
    ReadOk s ↔ (Reading s → FrameOk s ∧ 0 < s.frCnt.toNat ∧ frComplete s = false) := by
  have incomplete : frComplete s = false ↔
      (s.frHaveLen = true → s.frRes.toNat < s.frLen.toNat + s.frEscCnt.toNat + Config.overhead) := by
    rw [← Bool.not_eq_true, frComplete_iff, not_and, Nat.not_le]; rfl
  rw [incomplete]
  refine imp_congr_right fun _ => ⟨?_, ?_⟩
  · rintro ⟨hpos, hsync, hfresh, hknown, hinc, hlist⟩
    exact ⟨⟨hsync, hfresh, hknown, hlist⟩, hpos, hinc⟩
  · rintro ⟨h, hpos, hinc⟩
    exact ⟨hpos, h.synced, h.fresh, h.known, hinc, h.listed⟩

theorem Unsynced.frameOk {n : Half} {s : State} (h : Unsynced n s) : FrameOk s := by
  constructor <;> simp [h.res, h.escCnt, h.len, h.haveLen, h.escFlag, h.unlisted]

/-- What the length accumulator does at each logical position (42_framereader.md R159). -/
theorem frAccumulate_cases (v : Byte) (s : State) :
    (s.frRes.toNat = s.frEscCnt.toNat + 2 ∧ frAccumulate v s = frTakeHigh v s) ∨
    (s.frRes.toNat = s.frEscCnt.toNat + 3 ∧ frAccumulate v s = frTakeLow v s) ∨
    (s.frRes.toNat ≠ s.frEscCnt.toNat + 2 ∧ s.frRes.toNat ≠ s.frEscCnt.toNat + 3 ∧ frAccumulate v s = s) := by
  unfold frAccumulate
  split
  · exact .inl ⟨‹_›, rfl⟩
  · split
    · exact .inr (.inl ⟨‹_›, rfl⟩)
    · exact .inr (.inr ⟨‹_›, ‹_›, rfl⟩)

theorem frAccumulate_frHaveLen (v : Byte) (s : State) :
    (frAccumulate v s).frHaveLen = (s.frHaveLen || decide (s.frRes.toNat = s.frEscCnt.toNat + 3)) := by
  rcases frAccumulate_cases v s with ⟨h, e⟩ | ⟨h, e⟩ | ⟨-, h, e⟩ <;> simp [e, h]

/-- After a counted byte the length is known exactly from logical position 3 on, and every byte but the first may be a
marker (42_framereader.md R158, R159). -/
theorem FrameOk.known_frDecode {s : State} (h : FrameOk s) (hlt : s.frRes.toNat < 65535) (b : Byte) :
    (frDecode b (frCount s)).frEscCnt.toNat ≤ s.frRes.toNat ∧
      ((frDecode b (frCount s)).frHaveLen = true ↔
        (frDecode b (frCount s)).frEscCnt.toNat + 3 ≤ s.frRes.toNat + 1) := by
  have hres := toNat_frRes_frCount hlt
  have hfew : s.frEscCnt.toNat ≤ s.frRes.toNat ∧ (1 ≤ s.frRes.toNat → s.frEscCnt.toNat + 1 ≤ s.frRes.toNat) := by
    refine ⟨?_, fun h1 => (h.synced h1).1⟩
    by_cases h0 : s.frRes = 0
    · rw [(h.fresh h0).1]; exact Nat.zero_le _
    · have := h.synced (Nat.pos_of_ne_zero (not_zero_toNat h0)); omega
  obtain ⟨hle, hfew⟩ := hfew
  rcases frDecode_cases b (frCount s) with ⟨-, h1, e⟩ | ⟨-, hk, e⟩ | ⟨-, hk, e⟩ <;> rw [e]
  · rw [toNat_frEscCnt_frMarker (by rw [frCount_frEscCnt]; omega), frCount_frEscCnt, frMarker_frHaveLen,
      frCount_frHaveLen, h.known]
    omega
  · have := h.known.mp hk
    simp only [frClearFlag_frEscCnt, frClearFlag_frHaveLen, hk, frCount_frEscCnt, true_iff]
    omega
  · have : ¬ s.frEscCnt.toNat + 3 ≤ s.frRes.toNat := by rw [← h.known]; simpa using hk
    have hlast : (frCount s).frHaveLen = false := hk
    simp only [frAccumulate_frEscCnt, frAccumulate_frHaveLen, frClearFlag_frEscCnt, frClearFlag_frHaveLen,
      frClearFlag_frRes, frCount_frEscCnt, hres, hlast, Bool.false_or, decide_eq_true_eq]
    omega

/-- A counted byte keeps the frame registers in order, if the first one is a sync byte. -/
theorem FrameOk.counted {s : State} (h : FrameOk s) (hlt : s.frRes.toNat < 65535) {b : Byte}
    (hb : s.frRes = 0 → b = Config.sync) : FrameOk (frCounted b s) := by
  have hres : (frCounted b s).frRes.toNat = s.frRes.toNat + 1 :=
    (congrArg _ (frCounted_frRes b s)).trans (toNat_frRes_frCount hlt)
  obtain ⟨hesc, hknown⟩ := h.known_frDecode hlt b
  refine ⟨fun _ => ⟨?_, ?_⟩, fun h0 => ?_, ?_, ?_⟩
  · rw [hres]; exact Nat.succ_le_succ hesc
  · by_cases h0 : s.frRes = 0
    · rw [← hb h0]; simpa [h0] using rxByteAt_frCounted_same b s
    · have := not_zero_toNat h0
      rw [rxByteAt_frCounted_ne (by omega)]
      exact (h.synced (by omega)).2
  · rw [h0] at hres; simp at hres
  · rw [hres]; exact hknown
  · rw [hres, frCounted_rxbuf]; exact memInsert_keys_range b _ h.listed

theorem FrameOk.accepted {s : State} (h : FrameOk s) (hlt : s.frRes.toNat < 65535) {b : Byte}
    (hb : b ≠ Config.sync → s.frRes ≠ 0) : FrameOk (frAccept b s) := by
  by_cases hsync : b = Config.sync
  · subst hsync
    exact (unsynced_frRestart s).frameOk.counted (by simp) fun _ => rfl
  · rw [frAccept_of_ne_sync hsync]
    exact h.counted hlt fun h0 => absurd h0 (hb hsync)

/-- A read that runs after a move is kept as it was, opened anew, or has accepted a byte that ends nothing. -/
theorem Move.readOk {i : Instr} {s t : State} (h : Move i s t) (hs : Inv s) : ReadOk t := by
  cases h.readChange hs.config with
  | kept regs buf =>
    intro hr
    obtain ⟨hr', hbuf, hdraw⟩ := buf hr
    obtain ⟨hres, hesc, hlen, hhave, hflag, hcnt, -⟩ := regs
    simpa only [hres, hesc, hlen, hhave, hflag, hcnt, hbuf, rxByteAt_congr hbuf hdraw] using hs.read hr'
  | opened n _ hu pos =>
    rw [readOk_iff]
    intro hr
    refine ⟨hu.frameOk, ?_, by simp [frComplete, hu.haveLen]⟩
    rw [hu.cnt]
    exact Nat.pos_of_ne_zero (not_zero_toNat (pos hr))
  | accepted b hr hb e =>
    rw [readOk_iff, e]
    intro hr'
    obtain ⟨hinc, hcnt, e⟩ := frContinue_of_reading (reading_frAccept hr b) hr'
    obtain ⟨hframe, hpos, -⟩ := (readOk_iff s).mp hs.read hr
    obtain ⟨hsum, -⟩ := hs.capacity
    have := s.frBufsize.isLt
    rw [e]
    exact ⟨hframe.accepted (by omega) hb, Nat.pos_of_ne_zero (not_zero_toNat hcnt), hinc⟩

/-! ### The write registers -/

/-- While no write runs, only the order of the two write registers matters. -/
theorem writeOk_of_not_writing {s : State} (h : ¬ (s.seq = .wa ∨ s.seq = .hsWa))
    (hle : s.waOff.toNat ≤ s.waLen.toNat) : WriteOk s :=
  ⟨hle, fun e => absurd (.inl e) h, fun e => absurd (.inr e) h⟩

theorem not_writing_of_reading {s : State} (h : Reading s) : ¬ (s.seq = .wa ∨ s.seq = .hsWa) :=
  fun h' => not_reading_of_writing h' h

theorem not_writing_frEnd {s : State} (h : Reading s) (r : Word) (c : Cause) :
    ¬ ((frEnd r c s).seq = .wa ∨ (frEnd r c s).seq = .hsWa) := by
  rcases frEnd_seq (r := r) (c := c) h with e | e <;> simp [e]

theorem not_writing_frContinue {s : State} (h : Reading s) :
    ¬ ((frContinue s).seq = .wa ∨ (frContinue s).seq = .hsWa) := by
  rcases frContinue_cases s with ⟨-, e⟩ | ⟨-, -, e⟩ | ⟨-, -, e⟩ <;> rw [e]
  · exact not_writing_frEnd h _ _
  · exact not_writing_frEnd h _ _
  · exact not_writing_of_reading h

theorem not_writing_beginFr {mode : Seq} (hm : mode = .fr ∨ mode = .hsFr) (n : Half) (s : State) :
    ¬ ((beginFr n mode s).seq = .wa ∨ (beginFr n mode s).seq = .hsWa) := by
  by_cases hn : n = 0
  · rw [hn, beginFr_zero]
    exact not_writing_frEnd (s := frOpen 0 mode s) hm _ _
  · rw [beginFr_of_pos hn]
    exact not_writing_of_reading hm

theorem not_writing_waEnd {s : State} (h : s.seq = .wa ∨ s.seq = .hsWa) (r : Word) (c : Cause) :
    ¬ ((waEnd r c s).seq = .wa ∨ (waEnd r c s).seq = .hsWa) := by
  rcases waEnd_cases h r c with ⟨op, c', -, -, e⟩ | ⟨-, e⟩ <;> rw [e]
  · simp
  · exact not_writing_beginFr (.inr rfl) _ _

theorem Move.writeOk {i : Instr} {s t : State} (h : Move i s t) (hs : WriteOk s) : WriteOk t := by
  have hle : s.waOff.toNat ≤ s.waLen.toNat := hs.1
  cases h with
  | handshakeStarted | delayEnded => exact ⟨by simp, by simp, by simp⟩
  | readStarted n => exact writeOk_of_not_writing (not_writing_beginFr (.inl rfl) n _) (by simpa using hle)
  | writeStarted n _ _ hn =>
    by_cases h0 : n = 0
    · rw [h0, beginWa_zero]
      exact writeOk_of_not_writing (not_writing_waEnd (.inl rfl) _ _) (by simp)
    · rw [beginWa_of_pos h0]
      exact ⟨by simp, by simpa using ⟨Nat.pos_of_ne_zero (not_zero_toNat h0), hn⟩, by simp⟩
  | syncFailed h => exact writeOk_of_not_writing (not_writing_frEnd h _ _) (by simpa using hle)
  | synced h => exact writeOk_of_not_writing (not_writing_frContinue (reading_frAccept h _)) (by simpa using hle)
  | counted b h =>
    exact writeOk_of_not_writing (not_writing_frContinue (by simpa [Reading] using h)) (by simpa using hle)
  | readFailed v _ h => exact writeOk_of_not_writing (not_writing_frEnd h _ _) (by simpa using hle)
  | acknowledged k h hk =>
    have hk : s.waOff.toNat + k.toNat ≤ s.waLen.toNat := by unfold txOffered at hk; omega
    rcases hk.lt_or_eq with hlt | heq
    · rw [waAccept_part hlt]
      exact writeOk_waSend hs hlt
    · have h' : (waSend k.toNat s).seq = .wa ∨ (waSend k.toNat s).seq = .hsWa := by simpa using h
      rw [waAccept_last heq]
      exact writeOk_of_not_writing (not_writing_waEnd h' _ _) (by rw [waEnd_waOff, waSend_off hk]; simpa using hk)
  | writeFailed v _ h => exact writeOk_of_not_writing (not_writing_waEnd h _ _) (by simpa using hle)
  | delayCancelled => exact writeOk_of_not_writing (by simp) hle
  | wasReset => exact writeOk_of_not_writing (by simp) (by simp)
  | _ => exact hs

/-! ### The flags -/

theorem flagsOk_endOp {op : LastOp} {c : Cause} {s : State} (hop : op ≠ .none) (hc : c ≠ .none) (r : Word)
    (hs : FlagsOk s) : FlagsOk (endOp op r c s) := by
  obtain ⟨hfault, -, -, -⟩ := hs
  simpa [FlagsOk, hop, hc] using hfault

theorem flagsOk_raiseFault {c : FaultCause} {s : State} (hc : c ≠ .none) (hs : FlagsOk s) :
    FlagsOk (raiseFault c s) := by
  obtain ⟨hfault, hdone, hcancel, hop⟩ := hs
  refine ⟨?_, hdone, hcancel, hop⟩
  by_cases hf : s.fault = true
  · simpa [hf] using hfault
  · simpa [hf] using hc

/-- The flags of an operation that runs: only a cancel in a handshake may be pending. -/
theorem flagsOk_of_running {s t : State} (hs : FlagsOk s) (faults : SameFaults s t) (outcome : SameOutcome s t)
    (hd : t.done = false) (hc : t.cancelPending = true → t.inHandshake = true) : FlagsOk t := by
  obtain ⟨hfault, -, -, hop⟩ := hs
  obtain ⟨hf, hfc⟩ := faults
  obtain ⟨-, hcause, hlast⟩ := outcome
  exact ⟨by rwa [hf, hfc], by simp [hd], hc, by rwa [hlast, hcause]⟩

/-- While an operation runs DONE is 0. -/
theorem done_eq_false_of_flagsOk {s : State} (hs : FlagsOk s) (h : s.seq ≠ .idle) : s.done = false := by
  obtain ⟨-, hdone, -, -⟩ := hs
  exact Bool.eq_false_iff.mpr fun hd => h (hdone hd).1

theorem cancelPending_eq_false_of_flagsOk {s : State} (hs : FlagsOk s) (h : s.inHandshake = false) :
    s.cancelPending = false := by
  obtain ⟨-, -, hcancel, -⟩ := hs
  exact Bool.eq_false_iff.mpr fun hc => by rw [hcancel hc] at h; cases h

theorem flagsOk_frEnd {s : State} (h : Reading s) (hs : FlagsOk s) {c : Cause} (hc : c ≠ .none) (r : Word) :
    FlagsOk (frEnd r c s) := by
  have hs' : FlagsOk (forgetAtEnd r (dumpAtEnd r s)) := by simpa [FlagsOk, State.inHandshake] using hs
  rcases frEnd_cases h r c with ⟨op, r', c', hop, hc', e⟩ | e <;> rw [e]
  · refine flagsOk_endOp hop ?_ r' hs'
    rcases hc' with rfl | rfl | rfl
    · exact hc
    · decide
    · decide
  · exact flagsOk_of_running hs' (by simp [SameFaults]) (by simp [SameOutcome])
      (by simpa using done_eq_false_of_flagsOk hs (ne_idle_of_reading h)) (by simp [State.inHandshake])

theorem flagsOk_frContinue {s : State} (h : Reading s) (hs : FlagsOk s) : FlagsOk (frContinue s) := by
  rcases frContinue_cases s with ⟨-, e⟩ | ⟨-, -, e⟩ | ⟨-, -, e⟩ <;> rw [e]
  · exact flagsOk_frEnd h hs (by decide) _
  · exact flagsOk_frEnd h hs (by decide) _
  · exact hs

theorem flagsOk_frAccept {s : State} (hs : FlagsOk s) (b : Byte) : FlagsOk (frAccept b s) := by
  unfold frAccept
  split <;> simpa [FlagsOk, State.inHandshake] using hs

theorem flagsOk_beginFr {mode : Seq} (hm : mode = .fr ∨ mode = .hsFr) {s : State} (hs : FlagsOk s)
    (hd : s.done = false) (hc : s.cancelPending = true → mode = .hsFr) (n : Half) : FlagsOk (beginFr n mode s) := by
  have hopen : FlagsOk (frOpen n mode s) :=
    flagsOk_of_running hs (by simp [SameFaults]) (by simp [SameOutcome]) hd fun h => by simp [State.inHandshake, hc h]
  unfold beginFr
  split
  · exact flagsOk_frEnd (s := frOpen n mode s) hm hopen (by decide) _
  · exact hopen

theorem flagsOk_waEnd {s : State} (h : s.seq = .wa ∨ s.seq = .hsWa) (hs : FlagsOk s) {c : Cause} (hc : c ≠ .none)
    (r : Word) : FlagsOk (waEnd r c s) := by
  rcases waEnd_cases h r c with ⟨op, c', hop, hc', e⟩ | ⟨-, e⟩ <;> rw [e]
  · refine flagsOk_endOp hop ?_ r hs
    rcases hc' with rfl | rfl
    · exact hc
    · decide
  · exact flagsOk_beginFr (.inr rfl) hs (done_eq_false_of_flagsOk hs (ne_idle_of_writing h)) (fun _ => rfl) _

theorem Move.flagsOk {i : Instr} {s t : State} (h : Move i s t) (hs : FlagsOk s) : FlagsOk t := by
  have cleared : FlagsOk (clearDone s) := by
    obtain ⟨hfault, -, hcancel, hop⟩ := hs
    exact ⟨hfault, by simp, hcancel, hop⟩
  have idle (h : s.seq = .idle) : s.cancelPending = false :=
    cancelPending_eq_false_of_flagsOk hs (by simp [State.inHandshake, h])
  cases h with
  | faulted c hc => exact flagsOk_raiseFault hc hs
  | readFaulted => exact flagsOk_raiseFault (c := .busErr) (by decide) hs
  | cancelLatched h =>
    obtain ⟨hfault, hdone, -, hop⟩ := hs
    exact ⟨hfault, hdone, fun _ => h, hop⟩
  | handshakeStarted =>
    exact flagsOk_of_running hs (by simp [SameFaults]) (by simp [SameOutcome]) (by simp) (by simp)
  | readStarted n _ h => exact flagsOk_beginFr (.inl rfl) cleared rfl (by simp [idle h]) n
  | writeStarted n _ h =>
    have hopen : FlagsOk (waOpen n .wa (clearDone s)) :=
      flagsOk_of_running hs (by simp [SameFaults]) (by simp [SameOutcome]) rfl (by simp [idle h])
    unfold beginWa
    split
    · exact flagsOk_waEnd (.inl rfl) hopen (by decide) _
    · exact hopen
  | doneCleared => exact cleared
  | syncFailed h => exact flagsOk_frEnd h hs (by decide) _
  | synced h => exact flagsOk_frContinue (reading_frAccept h _) (flagsOk_frAccept hs _)
  | counted b h hb =>
    rw [← frAccept_of_ne_sync hb]
    exact flagsOk_frContinue (reading_frAccept h b) (flagsOk_frAccept hs b)
  | readFailed v _ h => exact flagsOk_frEnd h hs (by decide) _
  | acknowledged k h =>
    have hsent : FlagsOk (waSend k.toNat s) := by simpa [FlagsOk, State.inHandshake] using hs
    unfold waAccept
    split
    · exact flagsOk_waEnd (by simpa using h) hsent (by decide) _
    · exact hsent
  | writeFailed v _ h => exact flagsOk_waEnd h hs (by decide) _
  | delayCancelled => exact flagsOk_endOp (by decide) (by decide) _ hs
  | delayEnded h =>
    exact flagsOk_of_running hs (by simp [SameFaults]) (by simp [SameOutcome])
      (by simpa using done_eq_false_of_flagsOk hs (by simp [h])) (by simp [State.inHandshake])
  | wasReset => simp [FlagsOk]
  | _ => exact hs

/-! ### The invariant -/

theorem inv_takeRecord {s : State} (h : Inv s) (rest : List Record) : Inv (takeRecord rest s) :=
  ⟨h.config, h.memory, h.capacity, h.read, h.write, h.flags⟩

/-- Settles O55, part by part of the invariant. -/
theorem stepKeepsInvariant : Obligations.StepKeepsInvariant := by
  intro s t hs h
  obtain rfl | ⟨i, rest, hm⟩ := step_move h
  · exact hs
  · have hs := inv_takeRecord hs rest
    exact ⟨by rw [ConfigOk, hm.environment.1]; exact hs.config, hm.memoryOk hs.memory, hm.capacityOk hs, hm.readOk hs,
      hm.writeOk hs.write, hm.flagsOk hs.flags⟩

end Sys2Proof.Machine
end

section
/-! The statements about FrameReader's commands, bytes and ends (42_framereader.md R151-R164, R169): what starts a read,
what each received byte does to it, and how it ends. -/

namespace Sys2Proof.Machine
open Sys2Proof.Safety

/-! ### Starts -/

/-- Settles O14: the accepted command opens the read with nothing counted. -/
theorem frameReaderStartOpensARead : Obligations.FrameReaderStartOpensARead := by
  intro s n hs hn hcap
  have he : commandFrStart n s = frOpen n .fr (clearDone s) := by
    rw [commandFrStart_of_idle hs, if_pos hcap, beginFr_of_pos hn]
  refine ⟨_, congrArg Host.Outcome.next he, ?_⟩
  simp [SameEnvironment, SameControl, SameOutcome, SameFaults, SameWriteRegs, SameTxbuf, txByteAt]

/-- Settles O16: each operation is opened and ended by `end_op` in the same step. -/
theorem emptyOperationsEndAtOnce : Obligations.EmptyOperationsEndAtOnce := by
  refine fun s hs => ⟨?_, ?_⟩
  · have he : commandFrStart 0 s = endOp .fr 0 .capacity (rxClear (frOpen 0 .fr (clearDone s))) := by
      rw [commandFrStart_of_idle hs, if_pos (by simp), beginFr_zero, frEnd_of_nonpos _ (.inl rfl) (by decide)]
      rfl
    refine ⟨_, congrArg Host.Outcome.next he, endedWith_endOp .., ?_⟩
    simp [SameEnvironment, SameControl, SameFaults, SameWriteRegs, SameTxbuf, txByteAt]
  · have he : commandWaStart 0 s = endOp .wa 0 .ok (waOpen 0 .wa (clearDone s)) := by
      rw [commandWaStart_of_idle hs, if_pos (by simp), beginWa_zero, waEnd_of_wa rfl]
    refine ⟨_, congrArg Host.Outcome.next he, endedWith_endOp .., ?_⟩
    simp [SameEnvironment, SameControl, SameFaults, SameFrameRegs, SameRxbuf, SameTxbuf, rxByteAt, txByteAt]

/-! ### Ends without a result -/

/-- Settles O18: the read ends with result 0 before the byte is counted. -/
theorem nonSyncFirstByteEndsTheRead : Obligations.NonSyncFirstByteEndsTheRead := by
  intro i b s hi hb hr h0
  have he := exec_received_unsynced hi hb hr h0
  rw [frEnd_of_nonpos .syncErr hr (by decide)] at he
  refine ⟨_, he, endedWith_endOp .., ?_⟩
  simp [SameFrameRegs, SameEnvironment, SameControl, SameFaults, SameWriteRegs, SameTxbuf, txByteAt]

/-- Settles O25: a sentinel is 0 or negative, so the read ends without a dump. -/
theorem readFailureEndsTheRead : Obligations.ReadFailureEndsTheRead := by
  intro v s hv hr
  have he : exec (.rxFail v) s = .next (frEnd v .ioRead s) := if_pos (awaitsRx_of_reading hr)
  rw [frEnd_of_nonpos .ioRead hr (toInt_of_rxFail hv)] at he
  refine ⟨_, he, endedWith_endOp .., ?_⟩
  simp [SameFrameRegs, SameEnvironment, SameControl, SameFaults, SameWriteRegs, SameTxbuf, txByteAt]

/-! ### The sync byte -/

/-- The tests after the store let a read go on. -/
theorem frContinue_of_incomplete {s : State} (h : frComplete s = false) (hc : s.frCnt ≠ 0) : frContinue s = s := by
  rw [frContinue, if_neg (by simp [h])]
  exact if_neg hc

/-- A sync byte alone completes no frame. -/
theorem frComplete_restart (s : State) : frComplete (frCounted Config.sync (frRestart s)) = false := by
  simp [frCounted_restart, frComplete]

/-- Settles O17: the registers are those of one counted byte, and only a buffer of one byte is full then. -/
theorem syncByteRestartsTheFrame : Obligations.SyncByteRestartsTheFrame := by
  intro i s hi hc hr
  have h1 : 1 ≤ (frCounted Config.sync (frRestart s)).frRes.toNat := by simp
  have goesOn (hne : s.frBufsize ≠ 1) :
      frContinue (frCounted Config.sync (frRestart s)) = frCounted Config.sync (frRestart s) := by
    refine frContinue_of_incomplete (frComplete_restart s) ?_
    rw [frCounted_frCnt, frRestart_frCnt]
    exact sub_ne_zero.mpr hne
  refine ⟨_, exec_received_sync hi hc hr, ?_⟩
  rw [(frContinue_rxbuf h1).1]
  refine ⟨by simp, by simp [frCounted_restart], by simp [frCounted_restart], by simp [frCounted_restart],
    by simp [frCounted_restart], by simp, by simp, by simp [memInsert], fun hne => ?_, ?_⟩
  · rw [goesOn hne]
    simp [SameSequencing, SameOutcome]
  · simp [SameEnvironment, SameControl, SameFaults, SameWriteRegs, SameTxbuf, txByteAt]

/-- Settles O27: the restart sets every register and byte of the frame anew. -/
theorem syncByteForgetsTheEarlierAttempt : Obligations.SyncByteForgetsTheEarlierAttempt := by
  intro i s res escCnt len cnt haveLen escFlag buf hi _
  rw [exec_of_receives hi, exec_of_receives hi]
  rfl

/-! ### A counted byte -/

theorem one_le_frRes_frCounted {s : State} (hc : ConfigOk s) (h : s.frRes.toNat < s.cfg.rxBufCap) (b : Byte) :
    1 ≤ (frCounted b s).frRes.toNat := by
  rw [frCounted_frRes, frRes_succ hc h]; omega

/-- Settles O19: the end of a read with a count keeps what the byte left. -/
theorem countedByteIsStoredRaw : Obligations.CountedByteIsStoredRaw := by
  intro i b s hi hb hc hr h0 hl
  obtain ⟨hbuf, hdraw⟩ := frContinue_rxbuf (one_le_frRes_frCounted hc hl b)
  refine ⟨_, exec_received_counted hi hb hr h0 hl, ?_, by simp, by simp,
    (rxByteAt_congr hbuf hdraw _).trans (rxByteAt_frCounted_same b s),
    fun j hj => (rxByteAt_congr hbuf hdraw j).trans (rxByteAt_frCounted_ne hj b), by simp, ?_⟩
  · rw [frContinue_frRes, frCounted_frRes, frRes_succ hc hl]
  · simp [SameEnvironment, SameControl, SameFaults, SameWriteRegs, SameTxbuf, txByteAt]

/-- Settles O20: the first byte of a frame is a sync byte, so this marker is not the first byte. -/
theorem escapeMarkerIsCounted : Obligations.EscapeMarkerIsCounted := by
  intro i s hi hc hr h0 hl
  refine ⟨_, exec_received_counted hi (by decide) hr h0 hl, ?_⟩
  simp [frCounted, frDecode_marker hc h0 hl]

/-- Settles O21: the byte is no marker, so it clears the flag, and is folded while the length is not known. -/
theorem lengthIsFoldedFromLogicalBytes : Obligations.LengthIsFoldedFromLogicalBytes := by
  intro i b s hi hsync hesc hc hr h0 hl
  refine ⟨_, exec_received_counted hi hsync hr h0 hl, ?_⟩
  rcases frDecode_cases b (frCount s) with ⟨e, -⟩ | ⟨-, hk, e⟩ | ⟨-, hk, e⟩
  · exact absurd e hesc
  · have hk : s.frHaveLen = true := hk
    simp [frCounted, e, hk]
  · have hk : s.frHaveLen = false := hk
    have hres : (frClearFlag (frCount s)).frRes.toNat = s.frRes.toNat + 1 := frRes_succ hc hl
    have hesc : (frClearFlag (frCount s)).frEscCnt = s.frEscCnt := rfl
    have hv : logicalValue s.frEscFlag b = if s.frEscFlag then b ||| 0x80 else b := rfl
    rw [frCount_frEscFlag] at e
    rw [← hv, hk]
    rcases frAccumulate_cases (logicalValue s.frEscFlag b) (frClearFlag (frCount s)) with
      ⟨h2, ea⟩ | ⟨h3, ea⟩ | ⟨h2, h3, ea⟩
    · rw [hres, hesc] at h2
      simp [frCounted, e, ea, hk, h2]
    · rw [hres, hesc] at h3
      simp [frCounted, e, ea, h3]
    · rw [hres, hesc] at h2 h3
      rw [if_neg Bool.false_ne_true, if_neg h2, if_neg h3]
      simp [frCounted, e, ea, hk]

/-! ### An accepted byte -/

/-- A byte that is accepted is stored and counted, and the tests follow. -/
theorem exec_accepted {i : Instr} {b : Byte} {s : State} (hi : Receives i b) (hc : ConfigOk s) (hr : Reading s)
    (h : b = Config.sync ∨ (s.frRes ≠ 0 ∧ s.frRes.toNat < s.cfg.rxBufCap)) :
    exec i s = .next (frContinue (frAccept b s)) := by
  by_cases hb : b = Config.sync
  · subst hb
    exact exec_received_sync hi hc hr
  · obtain ⟨h0, hl⟩ := h.resolve_left hb
    rw [frAccept_of_ne_sync hb]
    exact exec_received_counted hi hb hr h0 hl

theorem one_le_frRes_frAccept {b : Byte} {s : State} (hc : ConfigOk s)
    (h : b = Config.sync ∨ (s.frRes ≠ 0 ∧ s.frRes.toNat < s.cfg.rxBufCap)) : 1 ≤ (frAccept b s).frRes.toNat := by
  by_cases hb : b = Config.sync
  · subst hb
    simp [frAccept_sync]
  · rw [frAccept_of_ne_sync hb]
    exact one_le_frRes_frCounted hc (h.resolve_left hb).2 b

/-! ### How a read ends -/

/-- Settles O22: the tests after the store come in the order of the statement. -/
theorem standaloneReadEndsInOrder : Obligations.StandaloneReadEndsInOrder := by
  intro i b s hi hc hs hb
  have hseq : (frAccept b s).seq = .fr := (frAccept_seq b s).trans hs
  refine ⟨_, exec_accepted hi hc (.inl hs) hb, ?_⟩
  simp only [frContinue_frHaveLen, frContinue_frLen, frContinue_frEscCnt, frContinue_frRes, frContinue_frCnt,
    ← frComplete_iff]
  rcases frContinue_cases (frAccept b s) with ⟨h, e⟩ | ⟨h, hcnt, e⟩ | ⟨h, hcnt, e⟩ <;> rw [e]
  · rw [if_pos h, frEnd_of_fr hseq]
    exact endedWith_endOp ..
  · rw [if_neg (by simp [h]), if_pos (show (frAccept b s).frCnt = 0 from hcnt), frEnd_of_fr hseq]
    exact endedWith_endOp ..
  · rw [if_neg (by simp [h]), if_neg (show (frAccept b s).frCnt ≠ 0 from hcnt)]
    simp [SameSequencing, SameOutcome]

/-- The end of a read emits its dump, and DELAY_START if a handshake retries (43_handshake.md R197). -/
theorem frEnd_events {s : State} (h : Reading s) (r : Word) (c : Cause) :
    (frEnd r c s).events =
      (dumpAtEnd r s).events ++ (if (frEnd r c s).seq = .hsDelay then [.delayStart] else []) := by
  rcases frEnd_cases h r c with ⟨op, r', c', -, -, e⟩ | e <;> simp [e]

/-- The tests after the store emit a dump of what is counted exactly when they end the read (42_framereader.md R164). -/
theorem frContinue_events {s : State} (h : Reading s) (h1 : 1 ≤ s.frRes.toNat) :
    (frContinue s).events = s.events ++
      (if s.debugEn = true ∧ (frComplete s = true ∨ s.frCnt = 0) then [.dump (rxBytes s 0 s.frRes.toNat) s.frRes.toNat]
        else []) ++
      (if (frContinue s).seq = .hsDelay then [.delayStart] else []) := by
  have hpos : 0 < (0#16 ++ s.frRes : Word).toInt := by rw [toInt_zeroExtend16]; omega
  have dump : (dumpAtEnd (0#16 ++ s.frRes) s).events =
      s.events ++ (if s.debugEn = true then [.dump (rxBytes s 0 s.frRes.toNat) s.frRes.toNat] else []) := by
    rw [dumpAtEnd_events, toNat_zeroExtend16]
    simp only [hpos, and_true]
  rcases frContinue_cases s with ⟨hc, e⟩ | ⟨hc, hcnt, e⟩ | ⟨hc, hcnt, e⟩ <;> rw [e]
  · rw [frEnd_events h, dump]
    simp [hc]
  · rw [frEnd_events h, dump]
    simp [hcnt]
  · have hcnt : s.frCnt ≠ 0 := hcnt
    have hseq : s.seq ≠ .hsDelay := by rcases h with h | h <;> simp [h]
    rw [if_neg (by simpa [hc] using fun _ => hcnt), if_neg hseq]
    simp

/-- Settles O24: what is dumped is what the byte left counted and stored. -/
theorem dumpExactlyWhenAReadEnds : Obligations.DumpExactlyWhenAReadEnds := by
  intro i b s hi hc hr hb
  have h1 := one_le_frRes_frAccept hc hb
  obtain ⟨hbuf, hdraw⟩ := frContinue_rxbuf h1
  refine ⟨_, exec_accepted hi hc hr hb, ?_⟩
  rw [frContinue_events (reading_frAccept hr b) h1, rxBytes_congr hbuf hdraw, frAccept_events, frAccept_debugEn]
  simp only [frComplete_iff, frContinue_frHaveLen, frContinue_frLen, frContinue_frEscCnt, frContinue_frRes,
    frContinue_frCnt]

/-- The end of a read that is no sync error records none. -/
theorem frEnd_no_syncErr {s : State} (h : Reading s) (hd : s.done = false) {c : Cause} (hc : c ≠ .syncErr) (r : Word) :
    ((frEnd r c s).done = true → (frEnd r c s).cause ≠ .syncErr) ∧
      ((frEnd r c s).done = false → (frEnd r c s).cause = s.cause) := by
  rcases frEnd_cases h r c with ⟨op, r', c', -, hc', e⟩ | e <;> rw [e]
  · rcases hc' with rfl | rfl | rfl <;> simp [hc]
  · simp [hd]

/-- RXBUF has room for the next byte of a running read (42_framereader.md R166). -/
theorem frRes_lt_of_inv {s : State} (hs : Inv s) (hr : Reading s) : s.frRes.toNat < s.cfg.rxBufCap := by
  obtain ⟨hsum, hcap⟩ := hs.capacity
  obtain ⟨hpos, -⟩ := hs.read hr
  omega

/-- Settles O26: the tests after the store end a read with OK or CAPACITY, a handshake with LIMIT too. -/
theorem noSyncErrorOnceSynced : Obligations.NoSyncErrorOnceSynced := by
  intro i b s t hs hr h0 hi h
  rw [exec_accepted hi hs.config hr (.inr ⟨h0, frRes_lt_of_inv hs hr⟩)] at h
  cases h
  have hr' := reading_frAccept hr b
  have hd : (frAccept b s).done = false := by
    simpa using done_eq_false_of_flagsOk hs.flags (ne_idle_of_reading hr)
  rw [← frAccept_cause b s]
  rcases frContinue_cases (frAccept b s) with ⟨-, e⟩ | ⟨-, -, e⟩ | ⟨-, -, e⟩ <;> rw [e]
  · exact frEnd_no_syncErr hr' hd (by decide) _
  · exact frEnd_no_syncErr hr' hd (by decide) _
  · exact ⟨fun h => absurd (hd.symm.trans h) Bool.false_ne_true, fun _ => rfl⟩

/-! ### Model faults -/

theorem rxReceive_ne_fault {s : State} (hs : Inv s) (b : Byte) (f : Fault) : rxReceive b s ≠ .fault f := by
  have hcap := config_bounds hs.config
  have hfirst : (frRestart s).frRes.toNat < (frRestart s).cfg.rxBufCap := by simp; omega
  unfold rxReceive frConsume
  by_cases hr : s.awaitsRx = true
  · rw [if_pos hr, if_pos hfirst, if_pos (frRes_lt_of_inv hs ((awaitsRx_iff s).mp hr))]
    split
    · simp
    · split <;> simp
  · simp [hr]

/-- An instruction stops on no state of the invariant: every byte has its place in RXBUF, and every acknowledged byte is
one of the source. -/
theorem exec_ne_fault {s : State} (hs : Inv s) (i : Instr) (f : Fault) : exec i s ≠ .fault f := by
  cases i with
  | sync | esc | data | rxByte => exact rxReceive_ne_fault hs _ f
  | txAck k =>
    by_cases hw : s.seq = .wa ∨ s.seq = .hsWa
    · by_cases hk : k.toNat ≤ txOffered s
      · obtain ⟨he, -⟩ := exec_txAck hw hs.write hk
        simp [he]
      · simp only [exec, execTxAck]
        rw [if_pos ((awaitsTx_iff s).mpr hw), if_pos (by omega)]
        simp
    · simp only [exec, execTxAck]
      rw [if_neg (by rwa [awaitsTx_iff])]
      simp
  | hsStart | frStart | waStart | cancel | reset =>
    simp [exec, execHsStart, execFrStart, execWaStart, execCancel, execReset]
  | rxFail => simp only [exec, execRxFail]; split <;> simp
  | txFail => simp only [exec, execTxFail]; split <;> simp
  | delayDone => simp only [exec, execDelayDone]; (repeat' split) <;> simp
  | busRdB => simp only [exec, execBusRdB]; split <;> simp
  | busWrB => simp only [exec, execBusWrB]; split <;> simp
  | busRdW => simp only [exec, execBusRdW]; split <;> simp
  | busWrW => simp only [exec, execBusWrW]; split <;> simp

/-- Settles O57: a record that spells no instruction raises a fault of the spec or is refused. -/
theorem invariantExcludesModelFaults : Obligations.InvariantExcludesModelFaults := by
  intro s f hs
  unfold step
  split
  · split
    · simp
    · split
      · exact exec_ne_fault (inv_takeRecord hs _) _ f
      · unfold refuseRecord; split <;> simp
  · simp

end Sys2Proof.Machine
end

section
/-! The statements about whole frames (42_framereader.md R150, R165, R167, R170): what a read that ends with OK has
stored, and that a frame without escapes is read back. -/

namespace Sys2Proof.Machine
open Sys2Proof.Safety

/-! ### A whole frame -/

/-- The bytes a read has counted, its registers with them. -/
structure Received (bs : List Byte) (s : State) : Prop where
  describes : Describes s bs
  res : s.frRes.toNat = bs.length
  bytes : rxBytes s 0 bs.length = bs

theorem received_of_described {s : State} (h : RegistersDescribeBytes s) (hr : Reading s) :
    Received (rxBytes s 0 s.frRes.toNat) s :=
  ⟨(registersDescribeBytes_iff s).mp h hr, by simp, by simp⟩

theorem received_frRestart (s : State) : Received [] (frRestart s) := ⟨describes_frRestart s, rfl, rfl⟩

theorem Received.counted {bs : List Byte} {s : State} (h : Received bs s) (hc : ConfigOk s)
    (hl : s.frRes.toNat < s.cfg.rxBufCap) {b : Byte} (hsync : b = Config.sync → bs = [])
    (hesc : b = Config.esc → bs ≠ []) : Received (bs ++ [b]) (frCounted b s) where
  describes := h.describes.counted h.res hc hl hsync hesc
  res := by rw [frCounted_frRes, frRes_succ hc hl, h.res, List.length_append]; rfl
  bytes := by
    have e := rxBytes_frCounted b s
    rw [h.res, h.bytes] at e
    rwa [List.length_append]

/-- The first byte at which the length test holds meets it with equality, and is no marker (42_framereader.md R160,
R167). -/
theorem frComplete_exact {s : State} {b : Byte} (h : FrameOk s) (hinc : frComplete s = false)
    (hlt : s.frRes.toNat < 65535) (hcomp : frComplete (frCounted b s) = true) :
    (frCounted b s).frRes.toNat =
      (frCounted b s).frLen.toNat + (frCounted b s).frEscCnt.toNat + Config.overhead ∧ b ≠ Config.esc := by
  have hres := toNat_frRes_frCount hlt
  have hover : Config.overhead = 5 := rfl
  rw [← Bool.not_eq_true, frComplete_iff] at hinc
  rw [frComplete_iff] at hcomp
  simp only [frCounted, frStore_frRes, frStore_frLen, frStore_frEscCnt, frStore_frHaveLen, frDecode_frRes, hres]
    at hcomp ⊢
  obtain ⟨hhave, hle⟩ := hcomp
  rcases frDecode_cases b (frCount s) with ⟨-, h1, e⟩ | ⟨hb, hk, e⟩ | ⟨-, hk, e⟩ <;> rw [e] at hhave hle ⊢
  · have hk : s.frHaveLen = true := hhave
    have := h.known.mp hk
    rw [frMarker_frLen, frCount_frLen, toNat_frEscCnt_frMarker (by rw [frCount_frEscCnt]; omega),
      frCount_frEscCnt] at hle
    exact absurd ⟨hk, by omega⟩ hinc
  · have hk : s.frHaveLen = true := hk
    have := h.known.mp hk
    have hlt' : ¬ s.frLen.toNat + s.frEscCnt.toNat + 5 ≤ s.frRes.toNat := fun hle => hinc ⟨hk, hle⟩
    simp only [frClearFlag_frLen, frClearFlag_frEscCnt, frCount_frLen, frCount_frEscCnt] at hle ⊢
    exact ⟨by omega, fun hesc => hb ⟨hesc, by omega⟩⟩
  · have hk : ¬ s.frHaveLen = true := by simpa using hk
    rw [h.known] at hk
    rw [frAccumulate_frEscCnt, frClearFlag_frEscCnt, frCount_frEscCnt] at hle
    omega

/-- The bytes a complete frame has counted are one whole frame, and their number is its declared length, its markers and
the overhead (42_framereader.md R165). -/
theorem Received.isFrame {bs : List Byte} {s : State} (h : Received bs s) (hhave : s.frHaveLen = true)
    (hexact : s.frRes.toNat = s.frLen.toNat + s.frEscCnt.toNat + Config.overhead) (hhead : bs.head? = some Config.sync)
    (hlast : bs.getLast? ≠ some Config.esc) :
    IsFrame bs ∧ ∃ n, declaredLength bs = some n ∧ bs.length = n + bs.count Config.esc + Config.overhead := by
  have hd : declaredLength bs = some s.frLen.toNat := by
    rw [declaredLength_eq, if_pos (h.describes.known.mp hhave), h.describes.length]
  have hlen := length_logicalBytes false bs
  rw [h.res, h.describes.markers] at hexact
  exact ⟨⟨hhead, h.describes.synced, hlast, _, hd, by omega⟩, _, hd, hexact⟩

/-- The tests after the store keep the bytes received. -/
theorem Received.bytes_frContinue {bs : List Byte} {s : State} (h : Received bs s) (h1 : 1 ≤ s.frRes.toNat) :
    rxBytes (frContinue s) 0 s.frRes.toNat = bs := by
  obtain ⟨hbuf, hdraw⟩ := frContinue_rxbuf h1
  rw [rxBytes_congr hbuf hdraw, h.res, h.bytes]

/-- A standalone read ends with OK only by a complete frame. -/
theorem frContinue_ended_ok {s : State} (hs : s.seq = .fr) (hd : s.done = false) (hdone : (frContinue s).done = true)
    (hok : (frContinue s).cause = .ok) : frComplete s = true ∧ (frContinue s).result = 0#16 ++ s.frRes := by
  rcases frContinue_cases s with ⟨h, e⟩ | ⟨-, -, e⟩ | ⟨-, -, e⟩
  · exact ⟨h, by rw [e, frEnd_of_fr hs, endOp_result]⟩
  · rw [e, frEnd_of_fr hs] at hok; cases hok
  · rw [e, hd] at hdone; cases hdone

/-- Settles O28: only a counted byte completes a frame, and the bytes counted with it are the frame. -/
theorem completedReadIsOneWholeFrame : Obligations.CompletedReadIsOneWholeFrame := by
  intro i b s t hs hdesc hseq hi h hdone hok
  have hr : Reading s := .inl hseq
  have hd : s.done = false := done_eq_false_of_flagsOk hs.flags (ne_idle_of_reading hr)
  obtain ⟨hframe, -, hinc⟩ := (readOk_iff s).mp hs.read hr
  rw [exec_of_receives hi] at h
  obtain ⟨-, ⟨-, -, rfl⟩ | ⟨rfl, -, rfl⟩ | ⟨hb, h0, hl, rfl⟩⟩ := rxReceive_next h
  · rw [frEnd_of_fr hseq] at hok; cases hok
  · obtain ⟨hcomp, -⟩ := frContinue_ended_ok (by simpa using hseq) (by simpa using hd) hdone hok
    rw [frComplete_restart] at hcomp; cases hcomp
  · have hcap := config_bounds hs.config
    have h1 : 1 ≤ s.frRes.toNat := Nat.pos_of_ne_zero (not_zero_toNat h0)
    obtain ⟨hcomp, hresult⟩ := frContinue_ended_ok (by simpa using hseq) (by simpa using hd) hdone hok
    obtain ⟨hexact, hesc⟩ := frComplete_exact hframe hinc (by omega) hcomp
    have hrec := (received_of_described hdesc hr).counted hs.config hl (b := b) (fun e => absurd e hb)
      fun e => absurd e hesc
    have hhead : (rxBytes s 0 s.frRes.toNat ++ [b]).head? = some Config.sync := by
      obtain ⟨n, hn⟩ := Nat.exists_eq_add_of_le' h1
      rw [← (hframe.synced h1).2, hn]
      simp [rxBytes, List.range'_succ]
    have hwhole := hrec.isFrame ((frComplete_iff _).mp hcomp).1 hexact hhead (by simpa using hesc)
    rw [hresult, toNat_zeroExtend16, hrec.bytes_frContinue (one_le_frRes_frCounted hs.config hl b), hrec.res]
    exact hwhole

/-! ### A plain frame -/

theorem plainFrame_length (payload : List Byte) (x y : Byte) :
    (plainFrame payload x y).length = payload.length + 5 := by
  simp [plainFrame]

/-- Without markers every raw byte is a logical byte. -/
theorem logicalBytes_of_notMem {bs : List Byte} (h : Config.esc ∉ bs) : logicalBytes false bs = bs := by
  induction bs with
  | nil => rfl
  | cons b bs ih =>
    rw [List.mem_cons, not_or] at h
    simp [logicalBytes, Ne.symm h.1, ih h.2]

/-- Once the length of a plain frame is known, it is the payload's. -/
theorem lengthSoFar_plainFrame {payload bs more : List Byte} {x y : Byte} (h : bs ++ more = plainFrame payload x y)
    (hbs : 3 ≤ bs.length) (hP : payload.length < 65536) : (lengthSoFar bs).toNat = payload.length := by
  rw [← lengthSoFar_append hbs more, h, plainFrame, List.append_assoc, List.cons_append, List.cons_append,
    List.cons_append, toNat_lengthSoFar_known]
  simp only [BitVec.toNat_ofNat]
  omega

/-- The first bytes of a plain frame complete it only all together. -/
theorem frComplete_iff_plainFrame {payload bs more : List Byte} {x y : Byte} {s : State} (hs : Received bs s)
    (h : bs ++ more = plainFrame payload x y) (hesc : Config.esc ∉ bs) (hP : payload.length < 65536) :
    frComplete s = true ↔ more = [] := by
  have hlen := congrArg List.length h
  rw [List.length_append, plainFrame_length] at hlen
  have hzero : s.frEscCnt.toNat = 0 := hs.describes.markers.trans (List.count_eq_zero.mpr hesc)
  have hknown : s.frHaveLen = true ↔ 3 ≤ bs.length := by rw [hs.describes.known, logicalBytes_of_notMem hesc]
  rw [frComplete_iff, hknown, hzero, hs.res, hs.describes.length, logicalBytes_of_notMem hesc,
    ← List.length_eq_zero_iff]
  constructor
  · rintro ⟨h3, hle⟩
    rw [lengthSoFar_plainFrame h h3 hP] at hle
    omega
  · intro h0
    have h3 : 3 ≤ bs.length := by omega
    rw [lengthSoFar_plainFrame h h3 hP]
    omega

theorem Received.accepted {bs : List Byte} {s : State} (h : Received bs s) (hc : ConfigOk s)
    (hl : s.frRes.toNat < s.cfg.rxBufCap) {b : Byte} (hsync : b = Config.sync ↔ bs = []) (hesc : b ≠ Config.esc) :
    Received (bs ++ [b]) (frAccept b s) := by
  by_cases hb : b = Config.sync
  · rw [hsync.mp hb, hb]
    have := config_bounds hc
    exact (received_frRestart s).counted hc (by simp; omega) (fun _ => rfl) fun e => absurd e (by decide)
  · rw [frAccept_of_ne_sync hb]
    exact h.counted hc hl (fun e => absurd e hb) fun e => absurd e hesc

/-- A read that is as it was opened has received nothing. -/
theorem received_nil {s : State} (hs : Inv s) (hr : Reading s) (h0 : s.frRes = 0) : Received [] s := by
  obtain ⟨hframe, -, -⟩ := (readOk_iff s).mp hs.read hr
  obtain ⟨hesc, hlen, hhave, hflag⟩ := hframe.fresh h0
  refine ⟨⟨?_, hflag, ?_, hlen, List.not_mem_nil⟩, by rw [h0]; rfl, rfl⟩
  · rw [hesc]; rfl
  · simp [hhave, logicalBytes]

theorem received_takeRecord {bs : List Byte} {s : State} (h : Received bs s) (rest : List Record) :
    Received bs (takeRecord rest s) :=
  ⟨⟨h.describes.markers, h.describes.flag, h.describes.known, h.describes.length, h.describes.synced⟩, h.res, h.bytes⟩

/-- A step that receives a byte of a standalone read, up to the tests: the byte joins those received. -/
theorem step_received {bs : List Byte} {b : Byte} {s : State} {rest : List Record} (hs : Inv s) (hseq : s.seq = .fr)
    (hrec : Received bs s) (hp : s.pending = encode (.rxByte b) :: rest) (hsync : b = Config.sync ↔ bs = [])
    (hesc : b ≠ Config.esc) :
    ∃ u, step s = .next (frContinue u) ∧ Received (bs ++ [b]) u ∧ u.seq = .fr ∧ CapacityOk u ∧
      u.frBufsize = s.frBufsize ∧ u.pending = rest ∧ u.fault = s.fault := by
  have hs' := inv_takeRecord hs rest
  have hr : Reading (takeRecord rest s) := .inl hseq
  have hl := frRes_lt_of_inv hs' hr
  have hb : b = Config.sync ∨ (takeRecord rest s).frRes ≠ 0 := by
    refine (em (bs = [])).imp hsync.mpr fun hbs h0 => hbs (List.length_eq_zero_iff.mp ?_)
    rw [← (received_takeRecord hrec rest).res, h0]
    rfl
  obtain ⟨hpos, -⟩ := hs'.read hr
  refine ⟨frAccept b (takeRecord rest s), ?_, (received_takeRecord hrec rest).accepted hs'.config hl hsync hesc,
    (frAccept_seq ..).trans hseq, capacityOk_frAccept hs'.capacity hpos b, by simp, by simp, by simp⟩
  rw [step_of_decode hs.config hp (encodedInstructionDecodesBack _ rfl)]
  exact exec_accepted (.inl rfl) hs'.config hr (hb.imp_right fun h0 => ⟨h0, hl⟩)

/-- The last byte of a frame ends a standalone read with OK and the number of its bytes. -/
theorem Received.ended {bs : List Byte} {s : State} (h : Received bs s) (hs : s.seq = .fr) (h1 : 1 ≤ s.frRes.toNat)
    (hcomp : frComplete s = true) :
    EndedWith .fr (BitVec.ofNat 32 bs.length) .ok (frContinue s) ∧ rxBytes (frContinue s) 0 bs.length = bs := by
  have hresult : BitVec.ofNat 32 bs.length = 0#16 ++ s.frRes := by
    apply BitVec.eq_of_toNat_eq
    have := s.frRes.isLt
    rw [toNat_zeroExtend16, BitVec.toNat_ofNat, ← h.res, Nat.mod_eq_of_lt (by omega)]
  refine ⟨?_, by rw [← h.res]; exact h.bytes_frContinue h1⟩
  rw [frContinue, if_pos hcomp, frEnd_of_fr hs, hresult]
  exact endedWith_endOp ..

section
variable {payload : List Byte} {x y : Byte}
  (hplain : ∀ b ∈ (plainFrame payload x y).tail, b ≠ Config.sync ∧ b ≠ Config.esc)
include hplain

/-- The bytes of a plain frame after its sync byte are neither sync bytes nor markers. -/
theorem plainFrame_next {bs more : List Byte} {b : Byte}
    (h : bs ++ b :: more = plainFrame payload x y) : (b = Config.sync ↔ bs = []) ∧ b ≠ Config.esc := by
  cases bs with
  | nil =>
    have hb : b = Config.sync := (List.cons.inj h).1
    exact ⟨by simp [hb], by rw [hb]; decide⟩
  | cons a bs =>
    obtain ⟨hsync, hesc⟩ := hplain b (by rw [← h]; simp)
    exact ⟨by simp [hsync], hesc⟩

theorem esc_notMem_plainFrame : Config.esc ∉ plainFrame payload x y := by
  intro h
  rcases List.mem_cons.mp h with e | e
  · exact absurd e (by decide)
  · exact (hplain _ e).2 rfl

/-- A read that has received the first bytes of a plain frame reads the others, and ends with the last. -/
theorem run_plainFrame (rest : List Record) (more : List Byte) :
    ∀ (bs : List Byte) (s : State), more ≠ [] → bs ++ more = plainFrame payload x y → Inv s → s.seq = .fr →
      Received bs s → payload.length + 5 ≤ s.frBufsize.toNat →
      s.pending = more.map (fun b => encode (.rxByte b)) ++ rest →
      ∃ t : State, Host.Core.run core more.length s = .next t ∧
        EndedWith .fr (BitVec.ofNat 32 (payload.length + 5)) .ok t ∧
        rxBytes t 0 (payload.length + 5) = plainFrame payload x y ∧ t.pending = rest ∧ t.fault = s.fault := by
  induction more with
  | nil => exact fun _ _ h => absurd rfl h
  | cons b more ih =>
    intro bs s _ hF hs hseq hrec hsize hp
    have hlen := congrArg List.length hF
    rw [List.length_append, List.length_cons, plainFrame_length] at hlen
    obtain ⟨hsync, hesc⟩ := plainFrame_next hplain hF
    obtain ⟨u, hstep, hu, huseq, hcap, husize, hpending, hfault⟩ := step_received hs hseq hrec hp hsync hesc
    have hF' : (bs ++ [b]) ++ more = plainFrame payload x y := by simpa using hF
    have hesc' : Config.esc ∉ bs ++ [b] := fun h =>
      esc_notMem_plainFrame hplain (hF' ▸ List.mem_append_left more h)
    have hcomp := frComplete_iff_plainFrame hu hF' hesc' (by have := s.frBufsize.isLt; omega)
    have hres : u.frRes.toNat = bs.length + 1 := by simpa using hu.res
    by_cases hm : more = []
    · subst hm
      rw [List.append_nil] at hF'
      obtain ⟨hended, hbytes⟩ := hu.ended huseq (by omega) (hcomp.mpr rfl)
      rw [hF', plainFrame_length] at hended hbytes
      exact ⟨frContinue u, run_succ_of_step (M := core) hstep 0, hended, hbytes, by simpa using hpending,
        by simpa using hfault⟩
    · have hcnt : u.frCnt ≠ 0 := fun h0 => by
        have := List.length_pos_of_ne_nil hm
        obtain ⟨hsum, -⟩ := hcap
        have hzero : u.frCnt.toNat = 0 := by rw [h0]; rfl
        rw [hres, husize] at hsum
        omega
      rw [frContinue_of_incomplete (by simpa [hm] using hcomp) hcnt] at hstep
      obtain ⟨t, hrun, hrest⟩ := ih (bs ++ [b]) u hm hF' (stepKeepsInvariant s u hs hstep) huseq hu
        (by rwa [husize]) hpending
      rw [← hfault]
      exact ⟨t, (run_succ_of_step (M := core) hstep _).trans hrun, hrest⟩

end

/-- Settles O29, by induction on the bytes still to come. -/
theorem plainFrameIsReadBack : Obligations.PlainFrameIsReadBack := by
  intro s payload x y rest hs hseq h0 hsize hplain hp
  have h := run_plainFrame hplain rest (plainFrame payload x y) [] s (List.cons_ne_nil _ _) rfl hs hseq
    (received_nil hs (.inl hseq) h0) hsize hp
  rwa [plainFrame_length] at h

end Sys2Proof.Machine
end

section
/-! The statements about the handshake (43_handshake.md): what an iteration sends, how the reply is judged, and what the
end of the retry delay does. -/

namespace Sys2Proof.Machine
open Sys2Proof.Safety

/-! ### What a handshake has sent -/

theorem sinceFlush_append (acc : List Byte) (es fs : List Event) :
    sinceFlush acc (es ++ fs) = sinceFlush (sinceFlush acc es) fs := by
  induction es generalizing acc with
  | nil => rfl
  | cons e es ih => cases e <;> exact ih _

/-- The end of a read sends nothing and does not flush. -/
theorem sinceFlush_frEnd {s : State} (h : Reading s) (r : Word) (c : Cause) :
    sinceFlush [] (frEnd r c s).events = sinceFlush [] s.events := by
  rw [frEnd_events h, dumpAtEnd_events, sinceFlush_append, sinceFlush_append]
  (repeat' split) <;> rfl

/-- An acknowledgement in HS_WA adds the accepted bytes of ROM_CMD (41_writeall.md R134). -/
theorem sinceFlush_waSend {s : State} (h : s.seq = .hsWa) (k : Nat) :
    sinceFlush [] (waSend k s).events =
      sinceFlush [] s.events ++ (Config.romCmd.drop s.waOff.toNat).take k := by
  have hsrc : txSource s s.waOff.toNat k = (Config.romCmd.drop s.waOff.toNat).take k := if_pos h
  rw [waSend_events, sinceFlush_append, hsrc]
  split
  · next hnil => rw [hnil, List.append_nil]; rfl
  · rfl

/-! ### What every move keeps of it -/

/-- Outside a handshake there is nothing to have sent. -/
theorem handshakeSendsCommand_of_op_ne_hs {s : State} (h : s.seq.op ≠ .hs) : HandshakeSendsCommand s := by
  refine ⟨fun e => absurd (by rw [e]; rfl) h, fun e => absurd ?_ h⟩
  rcases e with e | e <;> rw [e] <;> rfl

/-- Past the write all of ROM_CMD has to be sent. -/
theorem handshakeSendsCommand_of_sent {s : State} (h : s.seq ≠ .hsWa) (hs : sinceFlush [] s.events = Config.romCmd) :
    HandshakeSendsCommand s := ⟨fun e => absurd e h, fun _ => hs⟩

theorem handshakeSendsCommand_endOp (op : LastOp) (r : Word) (c : Cause) (s : State) :
    HandshakeSendsCommand (endOp op r c s) := handshakeSendsCommand_of_op_ne_hs (by simp [Seq.op])

/-- An operation of the host's own is no handshake, whether it runs or has ended. -/
theorem Goes.handshakeSendsCommand {op : LastOp} {p : Prop} {s t : State} (h : Goes op p s t) (hop : op ≠ .hs) :
    HandshakeSendsCommand t := by
  refine handshakeSendsCommand_of_op_ne_hs ?_
  cases h with
  | running _ e => rwa [e]
  | ended h => simp [h.idle, Seq.op]

theorem handshakeSendsCommand_frEnd {s : State} (h : Reading s) (hs : HandshakeSendsCommand s) (r : Word) (c : Cause) :
    HandshakeSendsCommand (frEnd r c s) := by
  rcases h with h | h
  · rw [frEnd_of_fr h]
    exact handshakeSendsCommand_endOp ..
  · obtain ⟨-, hsent⟩ := hs
    exact handshakeSendsCommand_of_sent (fun e => not_writing_frEnd (.inr h) r c (.inr e))
      ((sinceFlush_frEnd (.inr h) r c).trans (hsent (.inl h)))

theorem handshakeSendsCommand_frContinue {s : State} (h : Reading s) (hs : HandshakeSendsCommand s) :
    HandshakeSendsCommand (frContinue s) := by
  rcases frContinue_cases s with ⟨-, e⟩ | ⟨-, -, e⟩ | ⟨-, -, e⟩ <;> rw [e]
  · exact handshakeSendsCommand_frEnd h hs _ _
  · exact handshakeSendsCommand_frEnd h hs _ _
  · exact hs

theorem handshakeSendsCommand_counted {s : State} (h : Reading s) (hs : HandshakeSendsCommand s) (b : Byte) :
    HandshakeSendsCommand (frContinue (frCounted b s)) :=
  handshakeSendsCommand_frContinue (by simpa [Reading] using h) (by simpa [HandshakeSendsCommand] using hs)

/-- The read of the reply begins once all of ROM_CMD is sent (43_handshake.md R194). -/
theorem handshakeSendsCommand_beginFr {s : State} (hs : sinceFlush [] s.events = Config.romCmd) (n : Half) :
    HandshakeSendsCommand (beginFr n .hsFr s) := by
  have hopen : HandshakeSendsCommand (frOpen n .hsFr s) := handshakeSendsCommand_of_sent (by simp) hs
  unfold beginFr
  split
  · exact handshakeSendsCommand_frEnd (.inr rfl) hopen _ _
  · exact hopen

/-- An iteration begins with its flush and nothing sent. -/
theorem handshakeSendsCommand_beginIteration (s : State) : HandshakeSendsCommand (beginIteration s) :=
  ⟨fun _ => sinceFlush_append [] s.events [.flush], by simp⟩

/-- An acknowledgement sends the next part of ROM_CMD; the last one begins the read of the reply. -/
theorem handshakeSendsCommand_waAccept {s : State} (h : s.seq = .hsWa) (hw : WriteOk s) (hs : HandshakeSendsCommand s)
    {k : Nat} (hk : k ≤ txOffered s) : HandshakeSendsCommand (waAccept k s) := by
  obtain ⟨hle, -, hhs⟩ := hw
  obtain ⟨-, hlen⟩ := hhs h
  obtain ⟨hsofar, -⟩ := hs
  have hlen : s.waLen.toNat = 8 := by rw [hlen]; rfl
  have hk : s.waOff.toNat + k ≤ s.waLen.toNat := by unfold txOffered at hk; omega
  have hsent : sinceFlush [] (waSend k s).events = Config.romCmd.take (s.waOff.toNat + k) := by
    rw [sinceFlush_waSend h, hsofar h, List.take_add]
  rcases hk.lt_or_eq with hlt | heq
  · rw [waAccept_part hlt]
    exact ⟨fun _ => by rw [hsent, waSend_off hk], by simp [h]⟩
  · rw [waAccept_last heq, waEnd_of_hsWa (by simpa using h), hsAfterWrite, if_pos rfl]
    exact handshakeSendsCommand_beginFr (by rw [hsent, heq, hlen]; rfl) _

theorem Move.handshakeSendsCommand {i : Instr} {s t : State} (h : Move i s t) (hw : WriteOk s)
    (hs : HandshakeSendsCommand s) : HandshakeSendsCommand t := by
  cases h with
  | handshakeStarted => exact handshakeSendsCommand_beginIteration _
  | readStarted n => exact (goes_beginFr (.inl rfl) n _).handshakeSendsCommand (by decide)
  | writeStarted n => exact (goes_beginWa n _).handshakeSendsCommand (by decide)
  | syncFailed h => exact handshakeSendsCommand_frEnd h hs _ _
  | synced h => exact handshakeSendsCommand_counted (s := frRestart s) h hs _
  | counted b h => exact handshakeSendsCommand_counted h hs b
  | readFailed v _ h => exact handshakeSendsCommand_frEnd h hs _ _
  | acknowledged k h hk =>
    rcases h with h | h
    · exact (goes_waAccept (.inl h) k.toNat).handshakeSendsCommand (by rw [h]; decide)
    · exact handshakeSendsCommand_waAccept h hw hs hk
  | writeFailed v _ h =>
    rw [waEnd_ioWrite h]
    exact handshakeSendsCommand_endOp ..
  | delayCancelled => exact handshakeSendsCommand_endOp ..
  | delayEnded => exact handshakeSendsCommand_beginIteration s
  | wasReset => exact handshakeSendsCommand_of_op_ne_hs (by simp [Seq.op])
  | _ => exact hs

/-- Settles O60: a flush starts the count anew, each acknowledgement adds the bytes at `wa.off`, nothing else sends. -/
theorem stepKeepsHandshakeSendsCommand : Obligations.StepKeepsHandshakeSendsCommand := by
  refine ⟨rfl, fun s t hw hs h => ?_⟩
  obtain rfl | ⟨i, rest, hm⟩ := step_move h
  · exact hs
  · exact hm.handshakeSendsCommand hw hs

/-! ### The start of an iteration -/

/-- An iteration offers all of ROM_CMD (43_handshake.md R192). -/
theorem txSource_beginIteration (s : State) :
    txSource (beginIteration s) (beginIteration s).waOff.toNat (txOffered (beginIteration s)) = Config.romCmd := rfl

/-- Settles O13: the accepted command begins the first iteration. -/
theorem handshakeStartOpensAnIteration : Obligations.HandshakeStartOpensAnIteration := by
  intro s hs
  have he : commandHsStart s = hsStartRun (clearDone s) := startOperation_of_idle hs true hsStartRun
  refine ⟨_, congrArg Host.Outcome.next he, rfl, rfl, rfl, rfl, rfl, rfl, rfl, txSource_beginIteration _, ?_⟩
  simp [SameEnvironment, SameControl, SameOutcome, SameFaults, SameFrameRegs, SameRxbuf, SameTxbuf, rxByteAt, txByteAt]

/-- Settles O36: a pending cancel ends the operation by `end_op`, else an iteration begins. -/
theorem delayDoneCancelsOrRetries : Obligations.DelayDoneCancelsOrRetries := by
  intro s hs
  have he : exec .delayDone s =
      if s.cancelPending then .next (endOp .hs 0 .cancelled s) else .next (beginIteration s) :=
    if_pos ((awaitsTimer_iff s).mpr hs)
  refine ⟨fun hc => ?_, fun hc => ?_⟩
  · refine ⟨_, he.trans (if_pos hc), endedWith_endOp .., ?_⟩
    simp [SameWriteRegs, SameFrameRegs, SameRxbuf, SameTxbuf, SameEnvironment, SameControl, SameFaults, rxByteAt,
      txByteAt]
  · refine ⟨_, he.trans (if_neg (by simp [hc])), rfl, rfl, rfl, rfl, txSource_beginIteration s, rfl, rfl, hc, ?_⟩
    simp [SameOutcome, SameFrameRegs, SameRxbuf, SameTxbuf, SameEnvironment, SameControl, SameFaults, rxByteAt,
      txByteAt]

/-! ### The judgement of a reply -/

theorem matchesSignature_iff (sig : List Byte) (s : State) (n : Nat) :
    matchesSignature sig s n = true ↔ sig <+: rxBytes s 0 n := by
  simp only [matchesSignature, Bool.and_eq_true, decide_eq_true_eq]
  constructor
  · rintro ⟨hn, h⟩
    rw [List.prefix_iff_eq_take, rxBytes_take hn, h]
  · intro h
    have hn : sig.length ≤ n := by simpa using h.length_le
    exact ⟨hn, by rw [← rxBytes_take hn, ← List.prefix_iff_eq_take.mp h]⟩

theorem isBootloaderReply_iff (s : State) (n : Nat) : isBootloaderReply s n = true ↔ IsReply (rxBytes s 0 n) := by
  rw [isBootloaderReply, Bool.or_eq_true, matchesSignature_iff, matchesSignature_iff, IsReply]

/-- Settles O37: both compare as many bytes as the signature has. -/
theorem signatureCheckComparesFirstBytes : Obligations.SignatureCheckComparesFirstBytes :=
  ⟨rfl, rfl, isBootloaderReply_iff⟩

theorem limitReached_iff (s : State) :
    limitReached s = true ↔ s.hsLimit ≠ 0 ∧ s.hsLimit.toNat ≤ s.hsAttempts.toNat := by
  simp [limitReached]

@[simp] theorem frAccept_hsLimit (b : Byte) (s : State) : (frAccept b s).hsLimit = s.hsLimit := by
  unfold frAccept; split <;> simp

/-- How the tests after the store leave a read of the handshake that has counted `s.frRes` bytes (42_framereader.md R154,
43_handshake.md R195-R197). -/
inductive Judgement (s t : State) : Prop where
  /-- the next byte is awaited -/
  | awaited (h : ¬ (frComplete s = true ∨ s.frCnt = 0)) (e : t = s)
  | matched (h : frComplete s = true ∨ s.frCnt = 0) (hm : IsReply (rxBytes s 0 s.frRes.toNat))
      (e : t = endOp .hs (0#16 ++ s.frRes) .ok (dumpAtEnd (0#16 ++ s.frRes) s))
  | limited (h : frComplete s = true ∨ s.frCnt = 0) (hm : ¬ IsReply (rxBytes s 0 s.frRes.toNat))
      (hl : limitReached s = true) (e : t = endOp .hs 0 .limit (dumpAtEnd (0#16 ++ s.frRes) s))
  | delayed (h : frComplete s = true ∨ s.frCnt = 0) (hm : ¬ IsReply (rxBytes s 0 s.frRes.toNat))
      (hl : limitReached s = false) (e : t = enterDelay (dumpAtEnd (0#16 ++ s.frRes) s))

/-- A read that ends with a count is judged by its bytes, then by the limit, whatever its cause. -/
theorem judgement_frEnd {s : State} (hs : s.seq = .hsFr) (h1 : 1 ≤ s.frRes.toNat)
    (h : frComplete s = true ∨ s.frCnt = 0) (c : Cause) : Judgement s (frEnd (0#16 ++ s.frRes) c s) := by
  have hpos : 0 < (0#16 ++ s.frRes : Word).toInt := by rw [toInt_zeroExtend16]; omega
  have reply : isBootloaderReply (dumpAtEnd (0#16 ++ s.frRes) s) (0#16 ++ s.frRes : Word).toNat = true ↔
      IsReply (rxBytes s 0 s.frRes.toNat) := by
    rw [isBootloaderReply_iff, toNat_zeroExtend16, rxBytes_congr (dumpAtEnd_rxbuf ..) (dumpAtEnd_rxDraw ..)]
  have limit : limitReached (dumpAtEnd (0#16 ++ s.frRes) s) = limitReached s := by simp [limitReached]
  rw [frEnd_of_hsFr hs, forgetAtEnd_of_pos hpos]
  rcases hsAfterRead_cases (0#16 ++ s.frRes) c (dumpAtEnd (0#16 ++ s.frRes) s) with
    ⟨hle, -⟩ | ⟨-, hm, e⟩ | ⟨-, hm, hl, e⟩ | ⟨-, hm, hl, e⟩
  · omega
  · exact .matched h (reply.mp hm) e
  · exact .limited h (fun hr => by simp [reply.mpr hr] at hm) (limit ▸ hl) e
  · exact .delayed h (fun hr => by simp [reply.mpr hr] at hm) (limit ▸ hl) e

theorem judgement_frContinue {s : State} (hs : s.seq = .hsFr) (h1 : 1 ≤ s.frRes.toNat) : Judgement s (frContinue s) := by
  rcases frContinue_cases s with ⟨h, e⟩ | ⟨-, h, e⟩ | ⟨hinc, hcnt, e⟩
  · rw [e]
    exact judgement_frEnd hs h1 (.inl h) _
  · rw [e]
    exact judgement_frEnd hs h1 (.inr h) _
  · refine .awaited ?_ e
    rintro (h | h)
    · simp [hinc] at h
    · exact hcnt h

/-- Settles O23, by the judgement of what the accepted byte left counted and stored. -/
theorem handshakeReadIsJudged : Obligations.HandshakeReadIsJudged := by
  intro i b s hi hc hs hb
  have h1 := one_le_frRes_frAccept hc hb
  obtain ⟨hbuf, hdraw⟩ := frContinue_rxbuf h1
  refine ⟨_, exec_accepted hi hc (.inr hs) hb, ?_⟩
  simp only [frContinue_frHaveLen, frContinue_frLen, frContinue_frEscCnt, frContinue_frRes, frContinue_frCnt,
    ← frComplete_iff, rxBytes_congr hbuf hdraw]
  rw [← frAccept_hsLimit b s, ← frAccept_hsAttempts b s, ← limitReached_iff]
  cases judgement_frContinue ((frAccept_seq b s).trans hs) h1 with
  | awaited h e =>
    rw [if_neg h, e]
    simp [SameSequencing, SameOutcome]
  | matched h hm e =>
    rw [if_pos h, e]
    exact ⟨fun _ => endedWith_endOp .., fun hn => absurd hm hn⟩
  | limited h hm hl e =>
    rw [if_pos h, e]
    exact ⟨fun hr => absurd hr hm, fun _ => ⟨fun _ => endedWith_endOp .., fun hn => absurd hl hn⟩⟩
  | delayed h hm hl e =>
    rw [if_pos h, e]
    exact ⟨fun hr => absurd hr hm, fun _ => ⟨fun hl' => by simp [hl] at hl', fun _ => by simp [SameOutcome]⟩⟩

/-- Of at most 16 bytes only 16 are a reply, and only to the second signature (43_handshake.md R205). -/
theorem isReply_of_length_le {bs : List Byte} (h : IsReply bs) (hlen : bs.length ≤ 16) :
    bs.length = 16 ∧ Config.romSig2 <+: bs := by
  have h1 : Config.romSig1.length = 17 := rfl
  have h2 : Config.romSig2.length = 16 := rfl
  rcases h with h | h
  · have := h.length_le; omega
  · have := h.length_le; exact ⟨by omega, h⟩

/-- Settles O38: what is judged has at most as many bytes as the read's size. -/
theorem shortReplyBufferNeverMatches : Obligations.ShortReplyBufferNeverMatches := by
  intro i b s t hinv hs hsize hi h hdone hok
  have hr : Reading s := .inr hs
  by_cases hb : b = Config.sync ∨ (s.frRes ≠ 0 ∧ s.frRes.toNat < s.cfg.rxBufCap)
  · rw [exec_accepted hi hinv.config hr hb] at h
    cases h
    have h1 := one_le_frRes_frAccept hinv.config hb
    obtain ⟨hbuf, hdraw⟩ := frContinue_rxbuf h1
    have hd : s.done = false := done_eq_false_of_flagsOk hinv.flags (ne_idle_of_reading hr)
    cases judgement_frContinue ((frAccept_seq b s).trans hs) h1 with
    | awaited _ e => simp [e, hd] at hdone
    | matched _ hm e =>
      obtain ⟨hpos, -⟩ := hinv.read hr
      obtain ⟨hsum, -⟩ := capacityOk_frAccept hinv.capacity hpos b
      rw [frAccept_frBufsize] at hsum
      obtain ⟨hlen, hsig⟩ := isReply_of_length_le hm (by rw [rxBytes_length]; omega)
      rw [rxBytes_length] at hlen
      have hresult : (frContinue (frAccept b s)).result = 0#16 ++ (frAccept b s).frRes := by rw [e]; rfl
      rw [hresult, toNat_zeroExtend16, rxBytes_congr hbuf hdraw]
      exact ⟨by omega, hsig⟩
    | limited _ _ _ e => rw [e] at hok; cases hok
    | delayed _ _ _ e => simp [e, hd] at hdone
  · obtain ⟨hne, h0⟩ := not_or.mp hb
    have h0 : s.frRes = 0 := by
      by_contra hn
      exact h0 ⟨hn, frRes_lt_of_inv hinv hr⟩
    rw [exec_received_unsynced hi hne hr h0, frEnd_of_nonpos .syncErr hr (by decide)] at h
    cases h
    cases hok

end Sys2Proof.Machine
end

section
/-! The statements about a step and the outcomes it leaves (60_exceptions.md R221, R224, 43_handshake.md R200): what a
step runs, and that RESULT, CAUSE and LAST_OP keep to the table of outcomes. -/

namespace Sys2Proof.Machine
open Sys2Proof.Safety

/-- Settles O6: the record is taken and its instruction runs in the state without it. -/
theorem stepRunsTheDecodedInstruction : Obligations.StepRunsTheDecodedInstruction :=
  fun _ _ _ _ hc hp hd => step_of_decode hc hp hd

/-! ### The table of outcomes -/

/-- The table speaks of RESULT, CAUSE and LAST_OP alone. -/
theorem outcomeOk_of_same {s t : State} (h : SameOutcome s t) (hs : OutcomeOk s) : OutcomeOk t := by
  obtain ⟨hresult, hcause, hlast⟩ := h
  rwa [OutcomeOk, hresult, hcause, hlast]

/-- An instruction keeps the outcome, ends an operation with a row of the table, or is RESET. A failure's row gives its
sentinel a sign, which only the instructions some record spells have (30_encoding.md R91, R92). -/
theorem outcomeOk_exec {i : Instr} {s t : State} (h : exec i s = .next t) (hi : i.wellFormed = true)
    (hs : OutcomeOk s) : OutcomeOk t := by
  cases (exec_move h).progress with
  | stays same => exact outcomeOk_of_same same hs
  | started _ same => exact outcomeOk_of_same same hs
  | ended _ he => exact he.outcome hi
  | endedAtOnce _ _ he => exact he.outcome trivial
  | reset hreset =>
    subst hreset
    cases h
    exact ⟨rfl, rfl⟩

/-- Settles O58: a step waits, runs a decoded and so well-formed instruction, or raises a fault, which leaves the outcome
alone. -/
theorem stepKeepsOutcomeTable : Obligations.StepKeepsOutcomeTable := by
  intro s t hs h
  obtain ⟨hc, ⟨-, rfl⟩ | ⟨r, rest, hp, ⟨i, hd, -⟩ | ⟨c, -, rfl⟩ | rfl⟩⟩ := step_next h
  · exact hs
  · rw [step_of_decode hc hp hd] at h
    exact outcomeOk_exec h (wellFormed_of_decode hd) hs
  · exact hs
  · exact hs

end Sys2Proof.Machine
end

section
/-! The statements about where a step waits or refuses by name (30_encoding.md R92, 10_state.md R43), what a host
transaction of reserved width does (30_encoding.md R94, 40_commands.md R118), and the reset values (10_state.md R38). -/

namespace Sys2Proof.Machine
open Sys2Proof.Safety

/-! ### Transactions of reserved width -/

/-- W is the highest bit of a host transaction (30_encoding.md R93). -/
theorem getLsbD_write_iff (r : BitVec 53) : r.getLsbD 52 = true ↔ r.toNat / 2 ^ 52 = 1 := by
  rw [BitVec.getLsbD, Nat.testBit_eq_decide_div_mod_eq, decide_eq_true_eq]
  have := r.isLt
  omega

/-- The decoder finds SZ 01 and 11 reserved. -/
theorem decodeBus_reserved {r : BitVec 53} (h : r.toNat / 2 ^ 50 % 4 = 1 ∨ r.toNat / 2 ^ 50 % 4 = 3) :
    decodeBus r = .error (.reservedWidth (r.getLsbD 52)) := by
  have hsize : (r.extractLsb' 50 2).toNat = r.toNat / 2 ^ 50 % 4 := toNat_extractLsb'_div r 50 2
  have hbyte : r.extractLsb' 50 2 ≠ 0b00#2 := fun e => by rw [e, BitVec.toNat_ofNat] at hsize; omega
  have hword : r.extractLsb' 50 2 ≠ 0b10#2 := fun e => by rw [e, BitVec.toNat_ofNat] at hsize; omega
  exact (if_neg hbyte).trans (if_neg hword)

theorem onlyFaultRaised_reservedWidthAccess (write : Bool) (s : State) :
    OnlyFaultRaised .busErr (if write then s.answer else some 0#32) s (reservedWidthAccess write s) := by
  cases write with
  | true => exact onlyFaultRaised_raiseFault .busErr s
  | false => exact onlyFaultRaised_readError s

/-- Settles O8: the decoder hands the direction of the transaction on, and a read is answered beside its fault. -/
theorem reservedWidthRaisesBusErr : Obligations.ReservedWidthRaisesBusErr := by
  intro s r rest hc hp hr
  refine ⟨_, step_of_decode_error hc hp (decodeBus_reserved hr), ?_⟩
  have h := onlyFaultRaised_reservedWidthAccess (r.getLsbD 52) (takeRecord rest s)
  rwa [if_congr (getLsbD_write_iff r) rfl rfl] at h

/-! ### Waits and refusals -/

theorem step_of_pending_nil {s : State} (hc : ConfigOk s) (hp : s.pending = []) : step s = .next s := by
  rw [ConfigOk] at hc
  simp [step, hc, hp]

theorem step_of_not_configOk {s : State} (hc : ¬ ConfigOk s) : step s = .refused .illFormedConfig := if_neg hc

theorem rxReceive_of_not_awaited {s : State} (h : s.awaitsRx = false) (b : Byte) :
    rxReceive b s = .refused (.notAwaited .rx) := if_neg (by simp [h])

/-- Settles O7: the step tests the configuration and then for a record, and each response is taken only where the state
awaits it. -/
theorem waitsAndRefusals : Obligations.WaitsAndRefusals := by
  refine ⟨fun s hc hp => step_of_pending_nil hc hp, fun s hc => step_of_not_configOk hc,
    fun s r rest why hc hp hd => step_of_decode_error hc hp hd, fun s i b v h hi => ?_, fun s i k v h hi => ?_,
    fun s h => ?_⟩
  · rcases hi with hb | rfl
    · rw [exec_of_receives hb, rxReceive_of_not_awaited h]
    · exact if_neg (by simp [h])
  · rcases hi with rfl | rfl <;> exact if_neg (by simp [h])
  · exact if_neg (by simp [h])

/-! ### Reset values -/

theorem statusWord_resetWith (p : Config.Params) : (State.resetWith p).statusWord = 0 := by
  simp [State.statusWord, State.irq, State.busy, Seq.code, Cause.code, FaultCause.code, LastOp.code, State.resetWith]

/-- Settles O45: power-on gives each state item its value, so STATUS reads 0 and the idle state awaits nothing. -/
theorem resetStateHoldsTheResetValues : Obligations.ResetStateHoldsTheResetValues := by
  intro p s
  obtain ⟨hrx, htx, htimer⟩ := awaits_nothing_of_idle (s := s) rfl
  have hstatus : s.statusWord = 0 := statusWord_resetWith p
  simp only [hrx, htx, htimer, hstatus]
  simp [s, State.irq, State.resetWith]

end Sys2Proof.Machine
end
